-- ==== Sys2Proof/Word.lean ====
section
/-!
DEFINITION. The value types of the block, each with the width spec/ gives it (00_scope.md R6, R8, R12;
10_state.md R14, R23). Nothing here computes.
-/

namespace Sys2Proof

/-- A Digit: 5 bits, value 0 to 31 (30_encoding.md R52). -/
abbrev Digit := BitVec 5

/-- A Word (also called limb): 20 bits (30_encoding.md R52). -/
abbrev Word := BitVec 20

/-- An 8-bit character code (30_encoding.md R56). -/
abbrev Code := BitVec 8

/-- A string is a sequence of character codes, leftmost first (00_scope.md R9). -/
abbrev Text := List Code

/-- The operation selector `CMD[3:0]` (30_encoding.md R47). -/
abbrev Selector := BitVec 4

/-- The CRC table: exactly 32 digits (10_state.md R14, R15). -/
abbrev Table := Vector Digit 32

/-- The alphabet ROM: exactly 32 character codes, index = digit value (10_state.md R14, R17). -/
abbrev Alphabet := Vector Code 32

end Sys2Proof
end

