-- ==== Sys2Proof/Config.lean ====
section
/-!
DEFINITION. What is fixed for a block: the parameters the spec leaves to the model as arguments (00_scope.md R7),
the constants it settles (00_scope.md R6), and the two free values of a reset event.
-/

namespace Sys2Proof

/-- `P_TABLE_IMPL`: how the CRC table comes to hold its values (00_scope.md R7, 92_eei_decisions.md D8). -/
inductive TableImpl where
  | builtAtReset
  | rom
  deriving DecidableEq, Repr

/-- The implementation parameters of 00_scope.md R7, `P_ALPHABET` apart (that one is the contents of the state's
`ALPHA`). `none` is `∞`. -/
structure Params where
  tableImpl : TableImpl
  maxWords  : Option Nat
  maxText   : Option Nat
  deriving DecidableEq, Repr

/-- `BUILT_AT_RESET` is the spec's default (92_eei_decisions.md D8). DESIGN CHOICE (log 3): both capacities, which the
spec leaves OPEN and allows to be `∞`, are `∞` in `State.reset`; statements hold for every value. -/
def Params.default : Params := { tableImpl := .builtAtReset, maxWords := none, maxText := none }

/-- The generator polynomial `0b100101`, x^5+x^2+1 (00_scope.md R6). -/
def Config.generator : BitVec 6 := 0b100101

/-- The key separator `'-'` (00_scope.md R6, R9). -/
def Config.separator : Code := 0x2D

/-- The placeholder character `'?'` of a failed group (00_scope.md R6, R9). -/
def Config.placeholder : Code := 0x3F

/-- The default alphabet `"23456789ABCDEFGHJKLMNPQRSTUVWXYZ"` in its codes (41_alphabet.md R71). -/
def Config.defaultAlphabet : Alphabet :=
  #v[0x32, 0x33, 0x34, 0x35, 0x36, 0x37, 0x38, 0x39, 0x41, 0x42, 0x43, 0x44, 0x45, 0x46, 0x47, 0x48,
     0x4A, 0x4B, 0x4C, 0x4D, 0x4E, 0x50, 0x51, 0x52, 0x53, 0x54, 0x55, 0x56, 0x57, 0x58, 0x59, 0x5A]

/-- The constant contents of `TABLE` as the spec prints them (40_crc5.md R61): what `P_TABLE_IMPL = ROM` holds. -/
def Config.romTable : Table :=
  #v[ 0,  5, 10, 15, 20, 17, 30, 27, 13,  8,  7,  2, 25, 28, 19, 22,
     26, 31, 16, 21, 14, 11,  4,  1, 23, 18, 29, 24,  3,  6,  9, 12]

/-- Free value (log 2): entry `i` of `TABLE` after the `n`-th reset event, until the reset build writes it. The spec:
"unspecified (any value)" (10_state.md R28; 93_implementation_defined.md I1). -/
opaque Config.unbuiltEntry (n : Nat) (i : Digit) : Digit

/-- Free value (log 2): how many steps the reset build takes, after the `n`-th reset event, before the one that
completes it. The spec: "this spec gives no bound on how many" (70_reset_and_hazards.md R119). -/
opaque Config.buildDelay (n : Nat) : Nat

end Sys2Proof
end

