-- ==== Sys2Proof/Syntax.lean ====
section
/-!
DEFINITION. The operations of the block: one constructor for every row of spec/opcode_table.json (30_encoding.md R49).
A command is its selector alone: "no operation has an immediate" (30_encoding.md R50), so that no constructor carries a
field; operands travel on the operand ports, which are state.
-/

namespace Sys2Proof

inductive Instr where
  | reserved0000
  | crc5Bitwise
  | tableBuild
  | tableRead
  | crc5Fold
  | symbolOf
  | digitOf
  | splitWords
  | joinWords
  | encodeWord
  | decodeGroup
  | encodeKey
  | decodeKey
  | renderDecoded
  | reserved1110
  | reserved1111
  deriving DecidableEq, Repr

/-- Every operation once, in selector order. -/
def Instr.all : List Instr :=
  [.reserved0000, .crc5Bitwise, .tableBuild, .tableRead, .crc5Fold, .symbolOf, .digitOf, .splitWords,
   .joinWords, .encodeWord, .decodeGroup, .encodeKey, .decodeKey, .renderDecoded, .reserved1110, .reserved1111]

end Sys2Proof
end

