-- ==== Sys2Proof/WellFormed.lean ====
section
/-!
DEFINITION. What makes a term admissible. An instruction has no field, so nothing about it can be ill formed
(30_encoding.md R48, R50). What can be is a command word too wide for the 4-bit port (30_encoding.md R47, R48) and an
alphabet that breaks a constraint of 41_alphabet.md R70: one check for each.
-/

namespace Sys2Proof

/-- An instruction is its selector and nothing else: every one is well formed (30_encoding.md R48, R50). -/
def Instr.wellFormed (i : Instr) : Bool := Instr.all.contains i

/-- A command word fits the command port: it has no bit above `CMD[3:0]` (30_encoding.md R47, R48). -/
def commandWordFits (w : Nat) : Bool := decide (w < 16)

/-- 41_alphabet.md R70 item 1: the 32 entries are pairwise distinct. -/
def alphabetDistinct (α : Alphabet) : Bool := decide α.toList.Nodup

/-- 41_alphabet.md R70 item 2: every entry is printable, a code in 0x21 to 0x7E. -/
def alphabetPrintable (α : Alphabet) : Bool := α.toList.all fun c => decide (0x21 ≤ c) && decide (c ≤ 0x7E)

/-- 41_alphabet.md R70 item 3: none of `'0'`, `'1'`, `'O'`, `'I'`. -/
def alphabetUnambiguous (α : Alphabet) : Bool := α.toList.all fun c => !([0x30, 0x31, 0x4F, 0x49] : Text).contains c

/-- 41_alphabet.md R70 item 4: `ALPHA[0] == '2'`. -/
def alphabetStartsWithTwo (α : Alphabet) : Bool := α[0] == 0x32

/-- 41_alphabet.md R70 item 5: no lowercase letter. -/
def alphabetNoLowercase (α : Alphabet) : Bool := α.toList.all fun c => !(decide (0x61 ≤ c) && decide (c ≤ 0x7A))

/-- 41_alphabet.md R70 item 6: not the separator. -/
def alphabetNoSeparator (α : Alphabet) : Bool := α.toList.all fun c => c != Config.separator

/-- All six constraints of 41_alphabet.md R70. -/
def alphabetOk (α : Alphabet) : Bool :=
  alphabetDistinct α && alphabetPrintable α && alphabetUnambiguous α && alphabetStartsWithTwo α &&
    alphabetNoLowercase α && alphabetNoSeparator α

end Sys2Proof
end

