-- ==== Sys2Proof/Decode.lean ====
section
/-!
DEFINITION. The decoder, total on every selector and on every sequence of bytes, and after it the encoder, both
written from the opcode map of 30_encoding.md R49.
-/

namespace Sys2Proof

/-- Why a command word is no command. -/
inductive DecodeError where
  /-- There is nothing to decode. -/
  | noCommand
  /-- A bit above `CMD[3:0]` is set: the port has four bits, and "no way for a command to be longer than one selector"
  exists (30_encoding.md R47, R48; log 8). -/
  | selectorTooWide
  deriving DecidableEq, Repr

/-- The operation a selector names (30_encoding.md R49); the reserved selectors are operations too, with the effect
30_encoding.md R51 gives them. -/
def decodeSelector (op : Selector) : Instr :=
  match op[3], op[2], op[1], op[0] with
  | false, false, false, false => .reserved0000
  | false, false, false, true => .crc5Bitwise
  | false, false, true, false => .tableBuild
  | false, false, true, true => .tableRead
  | false, true, false, false => .crc5Fold
  | false, true, false, true => .symbolOf
  | false, true, true, false => .digitOf
  | false, true, true, true => .splitWords
  | true, false, false, false => .joinWords
  | true, false, false, true => .encodeWord
  | true, false, true, false => .decodeGroup
  | true, false, true, true => .encodeKey
  | true, true, false, false => .decodeKey
  | true, true, false, true => .renderDecoded
  | true, true, true, false => .reserved1110
  | true, true, true, true => .reserved1111

/-- Decode one command word given as a number: its low four bits are the selector, and a word with a bit above them is
no command (30_encoding.md R47, R48; log 8). -/
def decodeWord (w : Nat) : Except DecodeError Instr :=
  if commandWordFits w then .ok (decodeSelector (BitVec.ofNat 4 w)) else .error .selectorTooWide

/-- Decode the first command of a sequence of bytes, one command a byte with the selector in bits 3 to 0, and give the
rest of the sequence. -/
def decodeBytes : List (BitVec 8) → Except DecodeError (Instr × List (BitVec 8))
  | [] => .error .noCommand
  | b :: rest =>
    match decodeWord b.toNat with
    | .ok i => .ok (i, rest)
    | .error e => .error e

/-- Decode a whole sequence of bytes, one command a byte. -/
def decodeStream : List (BitVec 8) → Except DecodeError (List Instr)
  | [] => .ok []
  | b :: rest =>
    match decodeWord b.toNat with
    | .error e => .error e
    | .ok i =>
      match decodeStream rest with
      | .ok is => .ok (i :: is)
      | .error e => .error e

/-- The selector of an operation (30_encoding.md R49). -/
def encode : Instr → Selector
  | .reserved0000  => 0b0000
  | .crc5Bitwise   => 0b0001
  | .tableBuild    => 0b0010
  | .tableRead     => 0b0011
  | .crc5Fold      => 0b0100
  | .symbolOf      => 0b0101
  | .digitOf       => 0b0110
  | .splitWords    => 0b0111
  | .joinWords     => 0b1000
  | .encodeWord    => 0b1001
  | .decodeGroup   => 0b1010
  | .encodeKey     => 0b1011
  | .decodeKey     => 0b1100
  | .renderDecoded => 0b1101
  | .reserved1110  => 0b1110
  | .reserved1111  => 0b1111

/-- The byte that carries an operation's selector in its bits 3 to 0, the bits above it zero. -/
def encodeByte (i : Instr) : BitVec 8 := (encode i).setWidth 8

/-- The bytes of a sequence of commands. -/
def encodeStream (is : List Instr) : List (BitVec 8) := is.map encodeByte

/-- The instruction the decoder reads from the bits `w` of a row of spec/opcode_table.json: the first byte holds the
selector in bits 3 to 0 (the table's own numbering), and there is no further word. -/
def decodeTableWord (nbits w : Nat) : Option Instr :=
  if w < 2 ^ nbits then (decodeWord w).toOption else none

end Sys2Proof
end

