-- ==== Sys2Proof/Machine/BitSerial.lean ====
section
/-!
DEFINITION. The bit-serial path of the CRC-5 engine (40_crc5.md R59), which reads no `TABLE` entry (40_crc5.md R68),
and the table it builds (40_crc5.md R62; 70_reset_and_hazards.md R118).
-/

namespace Sys2Proof.Machine

/-- Step `i` of the bit-serial path: if the current top bit `r[i+5]` is 1, XOR in the generator aligned at `i`
(40_crc5.md R59; the working-register reading of 90_conflicts.md C2). -/
def crcStep (i : Nat) (r : BitVec 25) : BitVec 25 :=
  if r.getLsbD (i + 5) then r ^^^ (Config.generator.setWidth 25 <<< i) else r

/-- The steps `i = k - 1` down to 0 (40_crc5.md R59). -/
def crcSteps : Nat → BitVec 25 → BitVec 25
  | 0, r => r
  | k + 1, r => crcSteps k (crcStep k r)

/-- The bit-serial CRC-5: the register starts at `n << 5`, 20 steps, the low 5 bits (40_crc5.md R59). -/
def crc5 (n : Word) : Digit := (crcSteps 20 (n.setWidth 25 <<< 5)).setWidth 5

/-- The table as `TABLE_BUILD` and the reset build write it: entry `i` is `crc5(zext_20(i))` for every `i`
(40_crc5.md R62; 70_reset_and_hazards.md R118). "The order in which entries are written is not observable", and every
entry is written, so that the whole is given at once. -/
def builtTable : Table := Vector.ofFn fun i => crc5 (BitVec.ofNat 20 i.val)

end Sys2Proof.Machine
end

