-- ==== Sys2Proof/Machine/State.lean ====
section
/-!
DEFINITION. The state of the block as plain data (10_state.md R14), with its command, operand and response ports
(10_state.md R22 to R24), its parameters (00_scope.md R7), and the state after reset (10_state.md R28).
-/

namespace Sys2Proof.Machine

/-- The status codes of 60_exceptions.md R97 that a response may carry; the reserved codes `101` to `111` are "never
returned" and have no constructor (93_implementation_defined.md I4). -/
inductive Status where
  | ok
  | invalidLength
  | invalidSymbol
  | checksumMismatch
  | illegalOp
  deriving DecidableEq, Repr

/-- The kind of a validation error (00_scope.md R12, 30_encoding.md R54). -/
inductive ErrKind where
  | invalidLength
  | invalidSymbol
  | checksumMismatch
  deriving DecidableEq, Repr

/-- The validation error of one group with its payload: kind and info in one, so that a kind cannot carry another's
payload (30_encoding.md R54; 60_exceptions.md R98, R99, R100). -/
inductive GroupError where
  | invalidLength (group : Text) (len : Nat)
  | invalidSymbol (group : Text) (pos : Nat) (char : Code)
  | checksumMismatch (group : Text) (actual expected : Digit)
  deriving DecidableEq, Repr

/-- The outcome of one group: `Accepted(w)` or `Rejected(kind, info)` (30_encoding.md R54). -/
inductive GroupResult where
  | accepted (w : Word)
  | rejected (e : GroupError)
  deriving DecidableEq, Repr

/-- `ERR_INFO` (10_state.md R24): a group's payload (60_exceptions.md R98 to R100), the `(pos, char)` of `DIGIT_OF`
(R99), or the `(op)` of `ILLEGAL_OP` (R101). -/
inductive ErrInfo where
  | ofGroup (e : GroupError)
  | ofChar (pos : Nat) (char : Code)
  | ofOp (op : Selector)
  deriving DecidableEq, Repr

/-- The types a `RESULT` has, operation by operation (30_encoding.md R49). -/
inductive ResultType where
  | digit
  | code
  | word
  | nat
  | digits
  | words
  | text
  | results
  deriving DecidableEq, Repr

/-- `RESULT` (10_state.md R24; 30_encoding.md R49). -/
inductive Result where
  | digit (d : Digit)
  | code (c : Code)
  | word (w : Word)
  | nat (n : Nat)
  | digits (ds : List Digit)
  | words (ws : List Word)
  | text (t : Text)
  | results (rs : List GroupResult)
  deriving DecidableEq, Repr

/-- The response of one command (10_state.md R24): `none` is "absent". -/
structure Response where
  status  : Status
  result  : Option Result
  errInfo : Option ErrInfo
  deriving DecidableEq, Repr

/-- The names of the operand ports (10_state.md R23). -/
inductive PortName where
  | u20
  | d5
  | char
  | digits
  | words
  | nat
  | text
  | results
  deriving DecidableEq, Repr

/-- The operand ports at their declared types (10_state.md R23). -/
structure OperandPorts where
  u20     : Word
  d5      : Digit
  char    : Code
  digits  : List Digit
  words   : List Word
  nat     : Nat
  text    : Text
  results : List GroupResult
  deriving DecidableEq, Repr

/-- Every port at zero or empty. DESIGN CHOICE (log 4): the spec gives operand ports no reset value. -/
def OperandPorts.zero : OperandPorts :=
  { u20 := 0, d5 := 0, char := 0, digits := [], words := [], nat := 0, text := [], results := [] }

/-- What the host does in one step (10_state.md R22; 70_reset_and_hazards.md R117): it presents a command with its
operand ports, asserts reset, or does nothing. -/
inductive HostInput where
  | command (op : Selector) (ports : OperandPorts)
  | reset
  | quiet
  deriving DecidableEq, Repr

/-- The state. `table`, `tableReady` and `alpha` are the spec's architectural state (10_state.md R14; `REV` is computed
from `alpha`, 10_state.md R18); `port`, `ports` and `response` are its ports (10_state.md R22 to R24); `params` are its
parameters (00_scope.md R7). The last three fields are the MODEL's own (logs 1, 2, 5): how long the reset build still
takes, how many reset events have happened, and what the host will still do, one entry a step. -/
structure State where
  params     : Params
  table      : Table
  tableReady : Bool
  alpha      : Alphabet
  port       : Option Selector
  ports      : OperandPorts
  response   : Option Response
  buildDelay : Nat
  resets     : Nat
  inputs     : List HostInput
  deriving DecidableEq, Repr

/-- Why the block stops with a fault: never. "An error is a response, not a trap" and "there is no trap entry"
(60_exceptions.md R102, R108); "no access can fault" (20_memory.md R30). So the type has no constructor. -/
inductive Fault where
  deriving DecidableEq, Repr

/-- Why the model gives a command no meaning. -/
inductive Refusal where
  /-- Raised by an arm of `exec` whose instruction has no meaning yet; no arm does. Safe: nothing is claimed of it. -/
  | notModelled (mnemonic : String)
  /-- Raised by `SPLIT_WORDS`, `JOIN_WORDS` and `ENCODE_KEY` on an operand of more than `P_MAX_WORDS` words: "has no
  meaning in this spec: the model refuses it (no response is defined)" (60_exceptions.md R105). Safe: nothing is claimed
  of such a command. -/
  | tooManyWords
  /-- Raised by `CRC5_FOLD`, `DECODE_GROUP`, `DECODE_KEY` and `RENDER_DECODED` on an operand of more than `P_MAX_TEXT`
  elements (60_exceptions.md R105). Safe: nothing is claimed of such a command. -/
  | sequenceTooLong
  deriving DecidableEq, Repr

/-- What one step or one command ends in. -/
abbrev StepOutcome := Host.Outcome State Fault Refusal

/-- The state right after power-on reset for every choice of what the spec leaves open (10_state.md R28): the parameters,
the alphabet, the unspecified table entries `junk` and the length `delay` of the reset build. With `ROM` the table is
the constant of 40_crc5.md R61 and is ready at once. -/
def State.resetWith (p : Params) (α : Alphabet) (junk : Table) (delay : Nat) : State :=
  { params     := p
    table      := if p.tableImpl = .rom then Config.romTable else junk
    tableReady := decide (p.tableImpl = .rom)
    alpha      := α
    port       := none
    ports      := OperandPorts.zero
    response   := none
    buildDelay := delay
    resets     := 0
    inputs     := [] }

/-- The state right after reset: the spec's default parameters and alphabet (41_alphabet.md R71), `TABLE_READY` = 0, the
command port idle (10_state.md R28). DESIGN CHOICE (logs 1, 3, 4, 5): the unspecified table entries are zero, the
build's completing step comes next, the operand ports are zero or empty, the host has nothing planned. -/
def State.reset : State := State.resetWith Params.default Config.defaultAlphabet (Vector.replicate 32 0) 0

end Sys2Proof.Machine
end

