-- ==== Sys2Proof/Machine/Flags.lean ====
section
/-!
DEFINITION. The block has no condition codes and no flags (10_state.md R26); what a command reports instead is the
`STATUS` of its response. This file holds the status codes and the two shapes of a response (10_state.md R24;
60_exceptions.md R97).
-/

namespace Sys2Proof.Machine

/-- The 3-bit code of a status (60_exceptions.md R97). -/
def Status.code : Status → BitVec 3
  | .ok               => 0b000
  | .invalidLength    => 0b001
  | .invalidSymbol    => 0b010
  | .checksumMismatch => 0b011
  | .illegalOp        => 0b100

/-- The status that reports a validation error (60_exceptions.md R97). -/
def ErrKind.status : ErrKind → Status
  | .invalidLength    => .invalidLength
  | .invalidSymbol    => .invalidSymbol
  | .checksumMismatch => .checksumMismatch

/-- The kind of a group's error (30_encoding.md R54). -/
def GroupError.kind : GroupError → ErrKind
  | .invalidLength _ _      => .invalidLength
  | .invalidSymbol _ _ _    => .invalidSymbol
  | .checksumMismatch _ _ _ => .checksumMismatch

/-- A normal completion: `STATUS = OK`, the result, no `ERR_INFO` (10_state.md R24). -/
def Response.ok (v : Result) : Response := { status := .ok, result := some v, errInfo := none }

/-- An error: its status and payload, no `RESULT` (10_state.md R24). -/
def Response.error (st : Status) (info : ErrInfo) : Response := { status := st, result := none, errInfo := some info }

/-- The type of a result (30_encoding.md R49). -/
def Result.type : Result → ResultType
  | .digit _   => .digit
  | .code _    => .code
  | .word _    => .word
  | .nat _     => .nat
  | .digits _  => .digits
  | .words _   => .words
  | .text _    => .text
  | .results _ => .results

end Sys2Proof.Machine
end

