-- ==== Sys2Proof/Machine/Operands.lean ====
section
/-!
DEFINITION. The operand columns of the opcode map (30_encoding.md R49): which port an operation reads, what type its
result has, whether it needs `TABLE`. An operation reads its port whole, "with no extension, scaling or shifting on
entry" (30_encoding.md R50), which is the field of `State.ports` itself.
-/

namespace Sys2Proof.Machine

/-- The operand ports an operation reads (30_encoding.md R49, column "reads"). -/
def portsRead : Instr → List PortName
  | .reserved0000  => []
  | .crc5Bitwise   => [.u20]
  | .tableBuild    => []
  | .tableRead     => [.d5]
  | .crc5Fold      => [.digits]
  | .symbolOf      => [.d5]
  | .digitOf       => [.char]
  | .splitWords    => [.nat]
  | .joinWords     => [.words]
  | .encodeWord    => [.u20]
  | .decodeGroup   => [.text]
  | .encodeKey     => [.nat]
  | .decodeKey     => [.text]
  | .renderDecoded => [.results]
  | .reserved1110  => []
  | .reserved1111  => []

/-- The type of `RESULT` on `OK` (30_encoding.md R49); a reserved selector has none. -/
def resultType : Instr → Option ResultType
  | .reserved0000  => none
  | .crc5Bitwise   => some .digit
  | .tableBuild    => some .digits
  | .tableRead     => some .digit
  | .crc5Fold      => some .digit
  | .symbolOf      => some .code
  | .digitOf       => some .digit
  | .splitWords    => some .words
  | .joinWords     => some .nat
  | .encodeWord    => some .text
  | .decodeGroup   => some .word
  | .encodeKey     => some .text
  | .decodeKey     => some .results
  | .renderDecoded => some .text
  | .reserved1110  => none
  | .reserved1111  => none

/-- Whether an operation needs `TABLE`, and so is held while `TABLE_READY` = 0 (30_encoding.md R49;
70_reset_and_hazards.md R122). -/
def needsTable : Instr → Bool
  | .reserved0000  => false
  | .crc5Bitwise   => false
  | .tableBuild    => true
  | .tableRead     => true
  | .crc5Fold      => true
  | .symbolOf      => false
  | .digitOf       => false
  | .splitWords    => false
  | .joinWords     => false
  | .encodeWord    => true
  | .decodeGroup   => true
  | .encodeKey     => true
  | .decodeKey     => true
  | .renderDecoded => false
  | .reserved1110  => false
  | .reserved1111  => false

/-- Two settings of the operand ports carry the same value on one port. -/
def samePort (p q : OperandPorts) : PortName → Bool
  | .u20     => p.u20 == q.u20
  | .d5      => p.d5 == q.d5
  | .char    => p.char == q.char
  | .digits  => p.digits == q.digits
  | .words   => p.words == q.words
  | .nat     => p.nat == q.nat
  | .text    => p.text == q.text
  | .results => p.results == q.results

end Sys2Proof.Machine
end

