-- ==== Sys2Proof/Machine/Ops.lean ====
section
/-!
DEFINITION. The shared operations: reading and writing the three lookup spaces (20_memory.md R29, R37), answering a
command and raising an error (60_exceptions.md R102), the table-ready hold (70_reset_and_hazards.md R122), the capacity
rule (60_exceptions.md R105), the build agent (70_reset_and_hazards.md R118), the reset event
(70_reset_and_hazards.md R117) and presenting a command (10_state.md R22).
-/

namespace Sys2Proof.Machine

/-! ### The lookup spaces -/

/-- `TABLE[i]` (10_state.md R16): every 5-bit index names an entry. -/
def readTable (t : Table) (i : Digit) : Digit := t[i.toNat]'i.isLt

/-- `ALPHA[d]` (10_state.md R17). -/
def readAlpha (α : Alphabet) (d : Digit) : Code := α[d.toNat]'d.isLt

/-- An entry of `REV`: a valid bit and a digit (10_state.md R14). -/
structure RevEntry where
  valid : Bool
  digit : Digit
  deriving DecidableEq, Repr

/-- `REV[c]`, computed from `ALPHA`: `(1, d)` if `ALPHA[d] == c` for some digit `d`, else `(0, 0)` (10_state.md R18). -/
def readRev (α : Alphabet) (c : Code) : RevEntry :=
  match (List.finRange 32).find? fun d => α[d] == c with
  | some d => { valid := true, digit := BitVec.ofFin d }
  | none   => { valid := false, digit := 0 }

/-- Write all of `TABLE` (40_crc5.md R62; 70_reset_and_hazards.md R118). -/
def writeTable (s : State) (t : Table) : State := { s with table := t }

/-- `TABLE_READY` as the host sees it "at all times as an output signal" (10_state.md R25). -/
def tableReadyOutput (s : State) : Bool := s.tableReady

/-! ### Completing a command -/

/-- The command completes "with exactly one response": the response is given and the port is idle again
(10_state.md R22, R24). -/
def respond (s : State) (r : Response) : StepOutcome := .next { s with port := none, response := some r }

/-- `return v`: the command ends with status `OK` and result `v` (00_scope.md R10). -/
def answer (s : State) (v : Result) : StepOutcome := respond s (Response.ok v)

/-- `raise E(info)`: the command ends with status `E` and the payload, "writes no state" and "leaves the block ready for
the next command" (00_scope.md R10; 60_exceptions.md R102). This is the one way an error is reported; the block has no
trap entry and no trap return (60_exceptions.md R108, R109). -/
def raise (s : State) (e : Status) (info : ErrInfo) : StepOutcome := respond s (Response.error e info)

/-- A held command "waits on the command port, reads nothing and produces no response"
(70_reset_and_hazards.md R122). -/
def hold (s : State) : StepOutcome := .next { s with response := none }

/-- The table-ready hold: the command is accepted only while `TABLE_READY` = 1 (70_reset_and_hazards.md R122). -/
def whenReady (s : State) (k : StepOutcome) : StepOutcome := if s.tableReady then k else hold s

/-- A size is within a capacity; `none` is `∞` (00_scope.md R7). -/
def fits (limit : Option Nat) (n : Nat) : Bool :=
  match limit with
  | none   => true
  | some m => decide (n ≤ m)

/-- An operand of `n` words is refused beyond `P_MAX_WORDS` (60_exceptions.md R105). -/
def withinWords (s : State) (n : Nat) (k : StepOutcome) : StepOutcome :=
  if fits s.params.maxWords n then k else .refused .tooManyWords

/-- A sequence operand of `n` elements is refused beyond `P_MAX_TEXT` (60_exceptions.md R105). -/
def withinText (s : State) (n : Nat) (k : StepOutcome) : StepOutcome :=
  if fits s.params.maxText n then k else .refused .sequenceTooLong

/-- Apply a change to the next state, if there is one. -/
def mapNext (f : State → State) : StepOutcome → StepOutcome
  | .next t    => .next (f t)
  | .fault r   => .fault r
  | .refused r => .refused r

/-! ### The build agent, reset, and the command port -/

/-- The completion of the reset build: every entry written, then `TABLE_READY <- 1` (70_reset_and_hazards.md R118). -/
def finishBuild (s : State) : State := { writeTable s builtTable with tableReady := true }

/-- The build agent's part of one step: nothing once the table is ready, else one step nearer the completion, which
comes after finitely many steps (70_reset_and_hazards.md R118, R119). -/
def tickBuild (s : State) : State :=
  if s.tableReady then s
  else
    match s.buildDelay with
    | 0     => finishBuild s
    | n + 1 => { s with buildDelay := n }

/-- `TABLE` right after the `n`-th reset event, with `P_TABLE_IMPL = BUILT_AT_RESET`: every entry is a free value
(10_state.md R28; log 2). -/
def unbuiltTable (n : Nat) : Table := Vector.ofFn fun i => Config.unbuiltEntry n (BitVec.ofFin i)

/-- Reset is asserted (70_reset_and_hazards.md R117, 10_state.md R28): a command on the port is abandoned and gets no
response; `TABLE_READY` and `TABLE` take their reset values; `ALPHA` and the parameters are unchanged; the reset build
starts with `BUILT_AT_RESET`, its length a free value (log 2). -/
def assertReset (s : State) : State :=
  { s with
    table      := if s.params.tableImpl = .rom then Config.romTable else unbuiltTable s.resets
    tableReady := decide (s.params.tableImpl = .rom)
    port       := none
    response   := none
    buildDelay := Config.buildDelay s.resets
    resets     := s.resets + 1 }

/-- The host presents a command together with its operand ports (10_state.md R22); the response of an earlier command is
no longer readable (10_state.md R26). -/
def present (op : Selector) (p : OperandPorts) (s : State) : State :=
  { s with port := some op, ports := p, response := none }

/-- Nothing is on the port: "idling changes no state" (60_exceptions.md R116), and the response of an earlier command is
no longer readable (10_state.md R26). -/
def idle (s : State) : State := { s with response := none }

/-- The host input is an asserted reset. -/
def HostInput.isReset : HostInput → Bool
  | .reset         => true
  | .command _ _   => false
  | .quiet         => false

/-- Put the command `i` where the very next step runs it: on the command port, with no reset before it; where `i` needs
`TABLE`, after the reset build that its hold waits for (log 9). -/
def withCommand (s : State) (i : Instr) : State :=
  let t := if needsTable i && !s.tableReady then finishBuild s else s
  { t with port := some (encode i), response := none, inputs := s.inputs.dropWhile HostInput.isReset }

end Sys2Proof.Machine
end

