-- ==== Sys2Proof/Machine/Crc5.lean ====
section
/-!
DEFINITION. The CRC-5 engine (40_crc5.md): the table-driven path and the engine's four commands. The two paths are kept
separate: the fold never calls the bit-serial function (40_crc5.md R68).
-/

namespace Sys2Proof.Machine

/-- One step of the fold: `s <- TABLE[d ^ s]` (40_crc5.md R64). -/
def foldStep (t : Table) (s d : Digit) : Digit := readTable t (d ^^^ s)

/-- The table-driven CRC: fold left over the digits from state 0 (40_crc5.md R64). -/
def fold (t : Table) (ds : List Digit) : Digit := ds.foldl (foldStep t) 0

/-- `CRC5_BITWISE`: `return crc5(A_U20)`; never held (40_crc5.md R59). -/
def execCrc5Bitwise (s : State) : StepOutcome := answer s (.digit (crc5 s.ports.u20))

/-- `TABLE_BUILD`: write every entry with its value and return the 32 entries; `TABLE_READY` stays
(40_crc5.md R62). -/
def execTableBuild (s : State) : StepOutcome :=
  whenReady s (answer (writeTable s builtTable) (.digits builtTable.toList))

/-- `TABLE_READ`: `return TABLE[A_D5]` (40_crc5.md R63). -/
def execTableRead (s : State) : StepOutcome :=
  whenReady s (answer s (.digit (readTable s.table s.ports.d5)))

/-- `CRC5_FOLD`: `return fold(A_DIGITS)` (40_crc5.md R64). -/
def execCrc5Fold (s : State) : StepOutcome :=
  whenReady s (withinText s s.ports.digits.length (answer s (.digit (fold s.table s.ports.digits))))

end Sys2Proof.Machine
end

