-- ==== Sys2Proof/Machine/Symbols.lean ====
section
/-!
DEFINITION. The base-32 alphabet lookup: case folding, the reverse lookup, and the commands `SYMBOL_OF` and `DIGIT_OF`
(41_alphabet.md).
-/

namespace Sys2Proof.Machine

/-- Case folding: a lowercase letter to its uppercase letter, every other code to itself (41_alphabet.md R72). -/
def casefold (c : Code) : Code := if 0x61 ≤ c ∧ c ≤ 0x7A then c - 0x20 else c

/-- `digit_of(c)`: the digit of a character, or invalid (41_alphabet.md R74). -/
def digitOf (α : Alphabet) (c : Code) : Option Digit :=
  let r := readRev α (casefold c)
  if r.valid then some r.digit else none

/-- `SYMBOL_OF`: `return ALPHA[A_D5]`; never held (41_alphabet.md R73). -/
def execSymbolOf (s : State) : StepOutcome := answer s (.code (readAlpha s.alpha s.ports.d5))

/-- `DIGIT_OF`: the digit of `A_CHAR`, or `INVALID_SYMBOL(pos = 0, char = A_CHAR)` with the code as presented; never held
(41_alphabet.md R74; 60_exceptions.md R99). -/
def execDigitOf (s : State) : StepOutcome :=
  match digitOf s.alpha s.ports.char with
  | some d => answer s (.digit d)
  | none   => raise s .invalidSymbol (.ofChar 0 s.ports.char)

end Sys2Proof.Machine
end

