-- ==== Sys2Proof/Machine/Group.lean ====
section
/-!
DEFINITION. The group encoder (43_group_encoder.md) and the group decoder (44_group_decoder.md).
-/

namespace Sys2Proof.Machine

/-- `digits4(w) = [w[19:15], w[14:10], w[9:5], w[4:0]]` (30_encoding.md R52; 20_memory.md R32). -/
def digits4 (w : Word) : List Digit :=
  [w.extractLsb' 15 5, w.extractLsb' 10 5, w.extractLsb' 5 5, w.extractLsb' 0 5]

/-- `(a<<15)|(b<<10)|(c<<5)|d` (20_memory.md R32; 44_group_decoder.md R84 step 6). -/
def packWord (a b c d : Digit) : Word :=
  (a.setWidth 20 <<< 15) ||| (b.setWidth 20 <<< 10) ||| (c.setWidth 20 <<< 5) ||| d.setWidth 20

/-- `encode_word(w)`: the symbols of the four data digits, then the symbol of the check digit, which is the fold of the
four (43_group_encoder.md R80). -/
def encodeWord (α : Alphabet) (t : Table) (w : Word) : Text :=
  (digits4 w ++ [fold t (digits4 w)]).map (readAlpha α)

/-- Resolve the character `c` at position `k` of the group `g` and go on with its digit, or reject the group there
(44_group_decoder.md R84 step 2). -/
def resolveAt (α : Alphabet) (g : Text) (k : Nat) (c : Code) (go : Digit → GroupResult) : GroupResult :=
  match digitOf α c with
  | some d => go d
  | none   => .rejected (.invalidSymbol g k c)

/-- Steps 3 to 6: compare the check digit with the fold of the data digits, and pack the word
(44_group_decoder.md R84). -/
def checkDigits (t : Table) (g : Text) (a b c d actual : Digit) : GroupResult :=
  if fold t [a, b, c, d] ≠ actual then .rejected (.checksumMismatch g actual (fold t [a, b, c, d]))
  else .accepted (packWord a b c d)

/-- `decode_group(g)`: the length check first, then the characters from left to right, then the check digit
(44_group_decoder.md R84; 60_exceptions.md R103 item 4). -/
def decodeGroup (α : Alphabet) (t : Table) (g : Text) : GroupResult :=
  match g with
  | [g0, g1, g2, g3, g4] =>
    resolveAt α g 0 g0 fun a =>
    resolveAt α g 1 g1 fun b =>
    resolveAt α g 2 g2 fun c =>
    resolveAt α g 3 g3 fun d =>
    resolveAt α g 4 g4 fun e =>
    checkDigits t g a b c d e
  | _ => .rejected (.invalidLength g g.length)

/-- The decoder's state machine as the source gives it (44_group_decoder.md R85). It lives within one command and is no
state of the block. -/
inductive DecoderPhase where
  | parsing
  | symbolCheck
  | checksumCheck (digits : List Digit)
  | accepted (w : Word)
  | rejected (e : GroupError)
  deriving DecidableEq, Repr

/-- One transition of the state machine on the group `g` (44_group_decoder.md R85). `accepted` and `rejected` are
terminal. `checksumCheck` is entered with five digits only; on any other number it stays, and no run gets there. -/
def decoderNext (α : Alphabet) (t : Table) (g : Text) : DecoderPhase → DecoderPhase
  | .parsing => if g.length ≠ 5 then .rejected (.invalidLength g g.length) else .symbolCheck
  | .symbolCheck =>
    match g.zipIdx.find? fun ck => (digitOf α ck.1).isNone with
    | some (c, k) => .rejected (.invalidSymbol g k c)
    | none        => .checksumCheck (g.filterMap (digitOf α))
  | .checksumCheck [a, b, c, d, e] =>
    if fold t [a, b, c, d] = e then .accepted (packWord a b c d)
    else .rejected (.checksumMismatch g e (fold t [a, b, c, d]))
  | .checksumCheck ds => .checksumCheck ds
  | .accepted w => .accepted w
  | .rejected e => .rejected e

/-- The result a terminal phase stands for (44_group_decoder.md R85). -/
def DecoderPhase.result? : DecoderPhase → Option GroupResult
  | .accepted w      => some (.accepted w)
  | .rejected e      => some (.rejected e)
  | .parsing         => none
  | .symbolCheck     => none
  | .checksumCheck _ => none

/-- `ENCODE_WORD`: `return encode_word(A_U20)` (43_group_encoder.md R80). -/
def execEncodeWord (s : State) : StepOutcome :=
  whenReady s (answer s (.text (encodeWord s.alpha s.table s.ports.u20)))

/-- `DECODE_GROUP`: return the word, or raise the group's error as the command's status (44_group_decoder.md R84). -/
def execDecodeGroup (s : State) : StepOutcome :=
  whenReady s <| withinText s s.ports.text.length <|
    match decodeGroup s.alpha s.table s.ports.text with
    | .accepted w => answer s (.word w)
    | .rejected e => raise s e.kind.status (.ofGroup e)

end Sys2Proof.Machine
end

