-- ==== Sys2Proof/Machine/Words.lean ====
section
/-!
DEFINITION. The 20-bit word splitter and joiner (42_words.md).
-/

namespace Sys2Proof.Machine

/-- The loop of `split_words`: prepend the low 20 bits, shift right by 20, until 0 is left (42_words.md R76). The first
argument bounds the number of turns. -/
def splitLoop : Nat → Nat → List Word → List Word
  | 0, _, ws => ws
  | turns + 1, n, ws =>
    if n >>> 20 = 0 then BitVec.ofNat 20 (n &&& 0xFFFFF) :: ws
    else splitLoop turns (n >>> 20) (BitVec.ofNat 20 (n &&& 0xFFFFF) :: ws)

/-- `split_words(n)`, most-significant word first (42_words.md R76). The bound on the turns is the number of words the
loop produces, one for 0 and one for every 20 bits begun, so that it never cuts the loop short. -/
def splitWords (n : Nat) : List Word := splitLoop (n.log2 / 20 + 1) n []

/-- `join_words(ws)`: fold left, `acc <- (acc << 20) | w`, from 0 (42_words.md R77). -/
def joinWords (ws : List Word) : Nat := ws.foldl (fun acc w => (acc <<< 20) ||| w.toNat) 0

/-- `SPLIT_WORDS`: `return split_words(A_NAT)`; never held; refused beyond `P_MAX_WORDS` (42_words.md R76). -/
def execSplitWords (s : State) : StepOutcome :=
  withinWords s (splitWords s.ports.nat).length (answer s (.words (splitWords s.ports.nat)))

/-- `JOIN_WORDS`: `return join_words(A_WORDS)`; never held; refused beyond `P_MAX_WORDS` (42_words.md R77). -/
def execJoinWords (s : State) : StepOutcome :=
  withinWords s s.ports.words.length (answer s (.nat (joinWords s.ports.words)))

end Sys2Proof.Machine
end

