-- ==== Sys2Proof/Machine/Key.lean ====
section
/-!
DEFINITION. The key layer: encode a key, split and decode a key text, render decoded results (45_key.md).
-/

namespace Sys2Proof.Machine

/-- The groups of a sequence of words joined by one separator between consecutive groups (30_encoding.md R55). -/
def joinGroups (gs : List Text) : Text := [Config.separator].intercalate gs

/-- `encode_key(n)`: split, encode each word, join with `'-'` (45_key.md R89). -/
def encodeKey (α : Alphabet) (t : Table) (n : Nat) : Text := joinGroups ((splitWords n).map (encodeWord α t))

/-- The scan of `split_key`, with the field `cur` being filled: a separator ends the field and starts the next, any other
character is appended to it (45_key.md R90). -/
def splitFields (cur : Text) : Text → List Text
  | []      => [cur]
  | c :: cs => if c = Config.separator then cur :: splitFields [] cs else splitFields (cur ++ [c]) cs

/-- `split_key(t)`: every `'-'` separates, empty fields stay, nothing is trimmed (45_key.md R90). -/
def splitKey (t : Text) : List Text := splitFields [] t

/-- `decode_key(t)`: decode every field on its own, in order (45_key.md R91, R92). -/
def decodeKey (α : Alphabet) (tb : Table) (t : Text) : List GroupResult := (splitKey t).map (decodeGroup α tb)

/-- The lowercase hexadecimal digits `"0123456789abcdef"` in their codes (45_key.md R94). -/
def hexDigits : Vector Code 16 :=
  #v[0x30, 0x31, 0x32, 0x33, 0x34, 0x35, 0x36, 0x37, 0x38, 0x39, 0x61, 0x62, 0x63, 0x64, 0x65, 0x66]

/-- `H[v]` (45_key.md R94). -/
def hexDigit (v : BitVec 4) : Code := hexDigits[v.toNat]'v.isLt

/-- `hex5(w)`: five digits, most-significant nibble first, leading zeros kept (45_key.md R94; 20_memory.md R35). -/
def hex5 (w : Word) : Text :=
  [hexDigit (w.extractLsb' 16 4), hexDigit (w.extractLsb' 12 4), hexDigit (w.extractLsb' 8 4),
   hexDigit (w.extractLsb' 4 4), hexDigit (w.extractLsb' 0 4)]

/-- One result rendered: the word's five digits, or five `'?'` whatever the error (45_key.md R93). -/
def renderOne : GroupResult → Text
  | .accepted w => hex5 w
  | .rejected _ => List.replicate 5 Config.placeholder

/-- `render(rs)`: the renderings in order, no separator between them (45_key.md R93). -/
def render (rs : List GroupResult) : Text := rs.flatMap renderOne

/-- `ENCODE_KEY`: `return encode_key(A_NAT)`; refused beyond `P_MAX_WORDS` (45_key.md R89). -/
def execEncodeKey (s : State) : StepOutcome :=
  whenReady s (withinWords s (splitWords s.ports.nat).length (answer s (.text (encodeKey s.alpha s.table s.ports.nat))))

/-- `DECODE_KEY`: `return decode_key(A_TEXT)`; the groups' errors stay inside the result, the status is `OK`
(45_key.md R91). -/
def execDecodeKey (s : State) : StepOutcome :=
  whenReady s (withinText s s.ports.text.length (answer s (.results (decodeKey s.alpha s.table s.ports.text))))

/-- `RENDER_DECODED`: `return render(A_RESULTS)`; never held (45_key.md R93). -/
def execRenderDecoded (s : State) : StepOutcome :=
  withinText s s.ports.results.length (answer s (.text (render s.ports.results)))

end Sys2Proof.Machine
end

