-- ==== Sys2Proof/Machine/Reserved.lean ====
section
/-!
DEFINITION. The reserved selectors `0000`, `1110` and `1111` (30_encoding.md R51; 60_exceptions.md R101).
-/

namespace Sys2Proof.Machine

/-- A reserved selector "completes at once with `STATUS = ILLEGAL_OP`", "reads no operand, writes no state and is never
held"; `ERR_INFO = (op)` (30_encoding.md R51; 60_exceptions.md R101). -/
def illegalOp (op : Selector) (s : State) : StepOutcome := raise s .illegalOp (.ofOp op)

/-- Selector `0000`. -/
def execReserved0000 (s : State) : StepOutcome := illegalOp 0b0000 s

/-- Selector `1110`. -/
def execReserved1110 (s : State) : StepOutcome := illegalOp 0b1110 s

/-- Selector `1111`. -/
def execReserved1111 (s : State) : StepOutcome := illegalOp 0b1111 s

end Sys2Proof.Machine
end

