-- ==== Sys2Proof/Machine/Dispatch.lean ====
section
/-! DEFINITION. One arm for every operation of the opcode map (30_encoding.md R49). -/

namespace Sys2Proof.Machine

def exec (i : Instr) (s : State) : Host.Outcome State Fault Refusal :=
  match i with
  | .reserved0000 => Sys2Proof.Machine.execReserved0000 s
  | .crc5Bitwise => Sys2Proof.Machine.execCrc5Bitwise s
  | .tableBuild => Sys2Proof.Machine.execTableBuild s
  | .tableRead => Sys2Proof.Machine.execTableRead s
  | .crc5Fold => Sys2Proof.Machine.execCrc5Fold s
  | .symbolOf => Sys2Proof.Machine.execSymbolOf s
  | .digitOf => Sys2Proof.Machine.execDigitOf s
  | .splitWords => Sys2Proof.Machine.execSplitWords s
  | .joinWords => Sys2Proof.Machine.execJoinWords s
  | .encodeWord => Sys2Proof.Machine.execEncodeWord s
  | .decodeGroup => Sys2Proof.Machine.execDecodeGroup s
  | .encodeKey => Sys2Proof.Machine.execEncodeKey s
  | .decodeKey => Sys2Proof.Machine.execDecodeKey s
  | .renderDecoded => Sys2Proof.Machine.execRenderDecoded s
  | .reserved1110 => Sys2Proof.Machine.execReserved1110 s
  | .reserved1111 => Sys2Proof.Machine.execReserved1111 s

end Sys2Proof.Machine
end

