-- ==== Sys2Proof/Machine/Cycle.lean ====
section
/-!
DEFINITION. One step of the block: what the host does in it, then the port agent and the build agent. The input list
holds one entry a step (log 5): a reset takes its step alone; a command is taken when the port is idle and waits while
it is busy, since "the block accepts at most one command at a time" (10_state.md R22); an empty list is a host that does
nothing.
-/

namespace Sys2Proof.Machine

/-- The port agent's part of a step: run the command on the port, or idle (10_state.md R22; 60_exceptions.md R116). -/
def portStep (s : State) : StepOutcome :=
  match s.port with
  | some op => exec (decodeSelector op) s
  | none    => .next (idle s)

/-- A step in which the host presents nothing new: the port agent, and beside it the build agent. A command accepted
while the build runs neither reads nor writes `TABLE` (70_reset_and_hazards.md R122), so their order cannot be seen. -/
def blockStep (s : State) : StepOutcome := mapNext tickBuild (portStep s)

/-- One step with the host's next input (log 5). -/
def hostStep (s : State) : StepOutcome :=
  match s.inputs with
  | []               => blockStep s
  | .quiet :: rest   => blockStep { s with inputs := rest }
  | .reset :: rest   => .next (assertReset { s with inputs := rest })
  | .command op p :: rest =>
    match s.port with
    | some _ => blockStep s
    | none   => .next (tickBuild (present op p { s with inputs := rest }))

end Sys2Proof.Machine
end

