-- ==== Sys2Proof/Machine/Step.lean ====
section
/-!
DEFINITION. The step, and how a command comes to stand where the next step runs it (log 9). The block fetches no
instruction (20_memory.md R43): the host presents one command at a time (10_state.md R13, R22).
-/

namespace Sys2Proof.Machine

/-- One step of the block with its host. -/
def step (s : State) : Host.Outcome State Fault Refusal := hostStep s

/-- The state with the instruction of the bits `w` on the command port, so that the very next step runs it; where `w` is
no command there is nothing to present, and the state is as it was. -/
def State.withFetchWord (s : State) (nbits w : Nat) : State :=
  match decodeTableWord nbits w with
  | some i => withCommand s i
  | none   => s

end Sys2Proof.Machine
end

