-- ==== Sys2Proof/Machine/Assembler.lean ====
section
/-!
DEFINITION. The assembly syntax for command sequences (30_encoding.md R57): a line, what it assembles to, and the reading
of a line from its characters. Notation of the host, not state of the block; log 7 says what the spec leaves open of it.
There are no pseudo-instructions (30_encoding.md R58): a line is one command.
-/

namespace Sys2Proof.Machine

/-- A per-group result as the syntax writes it: `ok(0xNNNNN)` or `err(KIND)` (30_encoding.md R57). The payload of an
`err` is not written. -/
inductive AsmResult where
  | ok (w : Word)
  | err (k : ErrKind)
  deriving DecidableEq, Repr

/-- A line `MNEMONIC operand`, the operand at the type of the port the operation reads; `TABLE_BUILD` takes none
(30_encoding.md R57). -/
inductive AsmLine where
  | crc5Bitwise (v : Word)
  | tableBuild
  | tableRead (i : Digit)
  | crc5Fold (ds : List Digit)
  | symbolOf (d : Digit)
  | digitOf (c : Code)
  | splitWords (n : Nat)
  | joinWords (ws : List Word)
  | encodeWord (w : Word)
  | decodeGroup (t : Text)
  | encodeKey (n : Nat)
  | decodeKey (t : Text)
  | renderDecoded (rs : List AsmResult)
  deriving DecidableEq, Repr

/-- The operation of a line. -/
def AsmLine.instr : AsmLine → Instr
  | .crc5Bitwise _   => .crc5Bitwise
  | .tableBuild      => .tableBuild
  | .tableRead _     => .tableRead
  | .crc5Fold _      => .crc5Fold
  | .symbolOf _      => .symbolOf
  | .digitOf _       => .digitOf
  | .splitWords _    => .splitWords
  | .joinWords _     => .joinWords
  | .encodeWord _    => .encodeWord
  | .decodeGroup _   => .decodeGroup
  | .encodeKey _     => .encodeKey
  | .decodeKey _     => .decodeKey
  | .renderDecoded _ => .renderDecoded

/-- A written result as a port value; `fill` gives the payload that `err(KIND)` does not write (log 7). -/
def asmResultValue (fill : ErrKind → GroupError) : AsmResult → GroupResult
  | .ok w  => .accepted w
  | .err k => .rejected (fill k)

/-- The operand ports of a line: the operand on the port the operation reads, every other port as in `base`
(30_encoding.md R57; R49: "a port not listed for an operation is not read by it"). -/
def asmPorts (fill : ErrKind → GroupError) (base : OperandPorts) : AsmLine → OperandPorts
  | .crc5Bitwise v    => { base with u20 := v }
  | .tableBuild       => base
  | .tableRead i      => { base with d5 := i }
  | .crc5Fold ds      => { base with digits := ds }
  | .symbolOf d       => { base with d5 := d }
  | .digitOf c        => { base with char := c }
  | .splitWords n     => { base with nat := n }
  | .joinWords ws     => { base with words := ws }
  | .encodeWord w     => { base with u20 := w }
  | .decodeGroup t    => { base with text := t }
  | .encodeKey n      => { base with nat := n }
  | .decodeKey t      => { base with text := t }
  | .renderDecoded rs => { base with results := rs.map (asmResultValue fill) }

/-- "The encoding of a line is its 4-bit selector from rule R49 plus the value on the operand port" (30_encoding.md
R57): what the host presents for it. -/
def assemble (fill : ErrKind → GroupError) (base : OperandPorts) (l : AsmLine) : HostInput :=
  .command (encode l.instr) (asmPorts fill base l)

/-! ### Reading a line -/

/-- The character codes of a string of ASCII characters (30_encoding.md R56). -/
def codesOf (s : String) : Text := s.toList.map fun c => BitVec.ofNat 8 c.toNat

/-- Drop blanks (log 7). -/
def skipBlanks : Text → Text
  | []      => []
  | c :: cs => if c = 0x20 ∨ c = 0x09 then skipBlanks cs else c :: cs

/-- Take the prefix `lit` off the text. -/
def expect : Text → Text → Option Text
  | [], t           => some t
  | _ :: _, []      => none
  | l :: ls, c :: t => if l = c then expect ls t else none

/-- The value of a decimal digit. -/
def decimalValue (c : Code) : Option Nat := if 0x30 ≤ c ∧ c ≤ 0x39 then some (c.toNat - 0x30) else none

/-- The value of a hexadecimal digit, in either letter case (log 7). -/
def hexValue (c : Code) : Option Nat :=
  if 0x30 ≤ c ∧ c ≤ 0x39 then some (c.toNat - 0x30)
  else if 0x41 ≤ c ∧ c ≤ 0x46 then some (c.toNat - 0x37)
  else if 0x61 ≤ c ∧ c ≤ 0x66 then some (c.toNat - 0x57)
  else none

/-- Read the longest run of digits in a base, after the value `acc` already read. -/
def readDigits (base : Nat) (value : Code → Option Nat) (acc : Nat) : Text → Nat × Text
  | []      => (acc, [])
  | c :: cs =>
    match value c with
    | some v => readDigits base value (acc * base + v) cs
    | none   => (acc, c :: cs)

/-- Read a number of at least one digit in a base. -/
def readNumber (base : Nat) (value : Code → Option Nat) : Text → Option (Nat × Text)
  | []      => none
  | c :: cs => (value c).map fun v => readDigits base value v cs

/-- A number in decimal. -/
def readDecimal : Text → Option (Nat × Text) := readNumber 10 decimalValue

/-- A number in hexadecimal with `0x`. -/
def readHex (t : Text) : Option (Nat × Text) := (expect (codesOf "0x") t).bind (readNumber 16 hexValue)

/-- A number "in hexadecimal with `0x` or in decimal" (30_encoding.md R57). -/
def readNat (t : Text) : Option (Nat × Text) :=
  match expect (codesOf "0x") t with
  | some rest => readNumber 16 hexValue rest
  | none      => readDecimal t

/-- A number that fits `w` bits. -/
def readBits (w : Nat) (p : Text → Option (Nat × Text)) (t : Text) : Option (BitVec w × Text) :=
  match p t with
  | some (n, rest) => if n < 2 ^ w then some (BitVec.ofNat w n, rest) else none
  | none           => none

/-- A character "in single quotes or as `0xNN`" (30_encoding.md R57). -/
def readCharacter : Text → Option (Code × Text)
  | 0x27 :: c :: 0x27 :: rest => some (c, rest)
  | t                         => readBits 8 readHex t

/-- The characters up to the closing double quote. -/
def readQuoted : Text → Option (Text × Text)
  | []      => none
  | c :: cs => if c = 0x22 then some ([], cs) else (readQuoted cs).map fun r => (c :: r.1, r.2)

/-- "A text in double quotes" (30_encoding.md R57). -/
def readText : Text → Option (Text × Text)
  | []      => none
  | c :: cs => if c = 0x22 then readQuoted cs else none

/-- The items of a sequence and its closing bracket; the first argument bounds the number of items. -/
def readItems {α : Type} (p : Text → Option (α × Text)) : Nat → Text → Option (List α × Text)
  | 0, _ => none
  | fuel + 1, t =>
    match p (skipBlanks t) with
    | none => none
    | some (v, rest) =>
      match skipBlanks rest with
      | 0x5D :: more => some ([v], more)
      | 0x2C :: more => (readItems p fuel more).map fun r => (v :: r.1, r.2)
      | _            => none

/-- A sequence `[v0, v1, ...]` (30_encoding.md R57); the bound is the text's length, which no sequence in it exceeds. -/
def readList {α : Type} (p : Text → Option (α × Text)) (t : Text) : Option (List α × Text) :=
  match t with
  | 0x5B :: rest =>
    match skipBlanks rest with
    | 0x5D :: more => some ([], more)
    | _            => readItems p rest.length rest
  | _ => none

/-- The kinds as the syntax writes them. -/
def kindNames : List (Text × ErrKind) :=
  [(codesOf "INVALID_LENGTH", .invalidLength), (codesOf "INVALID_SYMBOL", .invalidSymbol),
   (codesOf "CHECKSUM_MISMATCH", .checksumMismatch)]

/-- The first name of a list that the text begins with. -/
def readName {α : Type} : List (Text × α) → Text → Option (α × Text)
  | [], _ => none
  | (name, v) :: more, t =>
    match expect name t with
    | some rest => some (v, rest)
    | none      => readName more t

/-- A value and the closing parenthesis after it. -/
def closing {α : Type} (r : Option (α × Text)) : Option (α × Text) :=
  r.bind fun vt => (expect (codesOf ")") vt.2).map fun rest => (vt.1, rest)

/-- `ok(0xNNNNN)` or `err(KIND)` (30_encoding.md R57). -/
def readResult (t : Text) : Option (AsmResult × Text) :=
  match expect (codesOf "ok(") t with
  | some rest => (closing (readBits 20 readHex rest)).map fun r => (.ok r.1, r.2)
  | none =>
    match expect (codesOf "err(") t with
    | some rest => (closing (readName kindNames rest)).map fun r => (.err r.1, r.2)
    | none      => none

/-- The operand of an operation, by the port it reads (30_encoding.md R57, R49). A reserved selector has no line. -/
def readOperand (i : Instr) (t : Text) : Option (AsmLine × Text) :=
  match i with
  | .reserved0000  => none
  | .crc5Bitwise   => (readBits 20 readNat t).map fun r => (.crc5Bitwise r.1, r.2)
  | .tableBuild    => some (.tableBuild, t)
  | .tableRead     => (readBits 5 readDecimal t).map fun r => (.tableRead r.1, r.2)
  | .crc5Fold      => (readList (readBits 5 readDecimal) t).map fun r => (.crc5Fold r.1, r.2)
  | .symbolOf      => (readBits 5 readDecimal t).map fun r => (.symbolOf r.1, r.2)
  | .digitOf       => (readCharacter t).map fun r => (.digitOf r.1, r.2)
  | .splitWords    => (readNat t).map fun r => (.splitWords r.1, r.2)
  | .joinWords     => (readList (readBits 20 readNat) t).map fun r => (.joinWords r.1, r.2)
  | .encodeWord    => (readBits 20 readNat t).map fun r => (.encodeWord r.1, r.2)
  | .decodeGroup   => (readText t).map fun r => (.decodeGroup r.1, r.2)
  | .encodeKey     => (readNat t).map fun r => (.encodeKey r.1, r.2)
  | .decodeKey     => (readText t).map fun r => (.decodeKey r.1, r.2)
  | .renderDecoded => (readList readResult t).map fun r => (.renderDecoded r.1, r.2)
  | .reserved1110  => none
  | .reserved1111  => none

/-- The mnemonics of 30_encoding.md R49. -/
def mnemonicNames : List (Text × Instr) :=
  [(codesOf "CRC5_BITWISE", .crc5Bitwise), (codesOf "TABLE_BUILD", .tableBuild), (codesOf "TABLE_READ", .tableRead),
   (codesOf "CRC5_FOLD", .crc5Fold), (codesOf "SYMBOL_OF", .symbolOf), (codesOf "DIGIT_OF", .digitOf),
   (codesOf "SPLIT_WORDS", .splitWords), (codesOf "JOIN_WORDS", .joinWords), (codesOf "ENCODE_WORD", .encodeWord),
   (codesOf "DECODE_GROUP", .decodeGroup), (codesOf "ENCODE_KEY", .encodeKey), (codesOf "DECODE_KEY", .decodeKey),
   (codesOf "RENDER_DECODED", .renderDecoded)]

/-- Nothing is left of the line but blanks and a comment, which `;` starts (30_encoding.md R57). -/
def lineEnds (t : Text) : Bool :=
  match skipBlanks t with
  | []     => true
  | c :: _ => c == 0x3B

/-- After a mnemonic comes a blank before the operand, or the line ends. -/
def mnemonicEnds (t : Text) : Bool :=
  match t with
  | []     => true
  | c :: _ => c == 0x20 || c == 0x09 || c == 0x3B

/-- Read one line; `none` if it is no line of the syntax (a line with no command on it is none either). -/
def readLine (t : Text) : Option AsmLine :=
  match readName mnemonicNames (skipBlanks t) with
  | none => none
  | some (i, rest) =>
    if mnemonicEnds rest then
      match readOperand i (skipBlanks rest) with
      | some (l, more) => if lineEnds more then some l else none
      | none           => none
    else none

end Sys2Proof.Machine
end

