-- ==== Sys2Proof/Safety.lean ====
section
/-!
DEFINITION. What counts as a good state and a good answer, in the terms the statements use. Nothing here is part of the
machine.
-/

namespace Sys2Proof.Machine

/-- The invariant of the block: the table once ready is the constant of 40_crc5.md R61 (10_state.md R15, R20); with `ROM`
it is always ready (10_state.md R28); the alphabet is admissible (41_alphabet.md R70); a response and a pending command
never stand together ("exactly one response", 10_state.md R22). -/
structure State.Inv (s : State) : Prop where
  tableConstant  : s.tableReady = true → s.table = Config.romTable
  romReady       : s.params.tableImpl = .rom → s.tableReady = true
  alphabet       : alphabetOk s.alpha = true
  oneResponse    : s.response.isSome = true → s.port = none

/-- The operand of `i` is within the block's capacity (60_exceptions.md R105). -/
def withinCapacity (i : Instr) (s : State) : Bool :=
  match i with
  | .crc5Fold      => fits s.params.maxText s.ports.digits.length
  | .decodeGroup   => fits s.params.maxText s.ports.text.length
  | .decodeKey     => fits s.params.maxText s.ports.text.length
  | .renderDecoded => fits s.params.maxText s.ports.results.length
  | .splitWords    => fits s.params.maxWords (splitWords s.ports.nat).length
  | .encodeKey     => fits s.params.maxWords (splitWords s.ports.nat).length
  | .joinWords     => fits s.params.maxWords s.ports.words.length
  | .reserved0000  => true
  | .crc5Bitwise   => true
  | .tableBuild    => true
  | .tableRead     => true
  | .symbolOf      => true
  | .digitOf       => true
  | .encodeWord    => true
  | .reserved1110  => true
  | .reserved1111  => true

/-- The selector is one of the three reserved ones (30_encoding.md R51). -/
def isReserved (i : Instr) : Bool := [Instr.reserved0000, .reserved1110, .reserved1111].contains i

/-- The state after a command completed with the response `r` and wrote nothing else. -/
def answered (s : State) (r : Response) : State := { s with port := none, response := some r }

/-- The response a step ends with, if it ends with one. -/
def responseOf : StepOutcome → Option Response
  | .next t    => t.response
  | .fault _   => none
  | .refused _ => none

/-- The characters of `g` resolve to the digits `ds`, one each (44_group_decoder.md R84 step 2). -/
def resolvesTo (α : Alphabet) (g : Text) (ds : List Digit) : Prop := g.map (digitOf α) = ds.map some

/-- `k` is the lowest position of `g` whose character does not resolve, and `c` is that character. -/
def firstUnresolved (α : Alphabet) (g : Text) (k : Nat) (c : Code) : Prop :=
  g[k]? = some c ∧ digitOf α c = none ∧ ∀ j, j < k → ∀ b, g[j]? = some b → (digitOf α b).isSome = true

/-- The payload of a group's error says what 60_exceptions.md R98, R99 and R100 say of the group `g`. -/
def payloadFits (α : Alphabet) (t : Table) (g : Text) : GroupError → Prop
  | .invalidLength group len => group = g ∧ len = g.length ∧ g.length ≠ 5
  | .invalidSymbol group pos char => group = g ∧ g.length = 5 ∧ pos < 5 ∧ firstUnresolved α g pos char
  | .checksumMismatch group actual expected =>
    group = g ∧ actual ≠ expected ∧
      ∃ a b c d, resolvesTo α g [a, b, c, d, actual] ∧ expected = fold t [a, b, c, d]

/-- The position a group's error reports, if its kind reports one (60_exceptions.md R99). -/
def GroupError.pos? : GroupError → Option Nat
  | .invalidLength _ _      => none
  | .invalidSymbol _ pos _  => some pos
  | .checksumMismatch _ _ _ => none

/-- "The same `Accepted` word or the same error kind and position" (44_group_decoder.md R86). -/
def sameVerdict : GroupResult → GroupResult → Prop
  | .accepted w, .accepted w' => w = w'
  | .rejected e, .rejected e' => e.kind = e'.kind ∧ e.pos? = e'.pos?
  | .accepted _, .rejected _  => False
  | .rejected _, .accepted _  => False

/-- The group was accepted. -/
def GroupResult.isAccepted : GroupResult → Bool
  | .accepted _ => true
  | .rejected _ => false

/-- The last `k` hexadecimal digits of `n` in lowercase, most significant first, padded with zeros. -/
def hexPad : Nat → Nat → Text
  | 0, _     => []
  | k + 1, n => hexPad k (n / 16) ++ [hexDigit (BitVec.ofNat 4 n)]

/-- A bit vector is the coefficient vector of a polynomial over GF(2): bit `k` is the coefficient of `x^k`
(40_crc5.md R60; 20_memory.md R31). -/
def IsPoly {n : Nat} (p : Polynomial (ZMod 2)) (v : BitVec n) : Prop :=
  ∀ k, p.coeff k = if v.getLsbD k then 1 else 0

/-- `M` is the message `Σ dj(x)·x^(5(m-1-j))` of a digit sequence, built digit by digit from the most significant one
(40_crc5.md R65). -/
inductive IsMessage : List Digit → Polynomial (ZMod 2) → Prop where
  | nil : IsMessage [] 0
  | snoc {ds : List Digit} {M D : Polynomial (ZMod 2)} {d : Digit} :
      IsMessage ds M → IsPoly D d → IsMessage (ds ++ [d]) (M * Polynomial.X ^ 5 + D)

/-- The digits of a sequence reassembled into one integer, `Σ dj << (5(m-1-j))` (40_crc5.md R67). -/
def reassemble (ds : List Digit) : Nat := ds.foldl (fun acc d => acc * 32 + d.toNat) 0

/-- The five digits of an encoded group (43_group_encoder.md R82). -/
def groupDigits (t : Table) (w : Word) : List Digit := digits4 w ++ [fold t (digits4 w)]

/-- All patterns that change exactly two of five digits: two positions and two nonzero changes
(44_group_decoder.md R88). -/
def doubleChanges : List (Nat × Nat × Digit × Digit) :=
  (List.range 5).flatMap fun i =>
    ((List.range 5).filter fun j => decide (i < j)).flatMap fun j =>
      ((List.range 31).map fun a => BitVec.ofNat 5 (a + 1)).flatMap fun a =>
        (List.range 31).map fun b => (i, j, a, BitVec.ofNat 5 (b + 1))

/-- A digit sequence with one digit changed by XOR. -/
def changeDigit (ds : List Digit) (i : Nat) (δ : Digit) : List Digit := ds.modify i fun d => d ^^^ δ

end Sys2Proof.Machine
end

