-- ==== Sys2Proof/Certificates/Slice0/Obligations.lean ====
section
/-!
DEFINITION. The statements for the provers, in the order of the spec's files. A statement about a command concludes
`exec i s = .next (answered s r)`: the command completes, the response is `r`, the port is idle again, and every other
field of the state is as it was.
-/

open Sys2Proof Sys2Proof.Machine

/-! ### Decoding, the step, the host -/

/-- 30_encoding.md section 2: the sixteen selectors, written out from the opcode map. The last clause, that the one word
0b10011, whose bit 4 is above the selector, is refused, is no rule of the spec but the model's choice (log 8). -/
def Obligations.SelectorsDecodeByOpcodeMap : Prop :=
  decodeSelector 0b0000 = .reserved0000 ∧ decodeSelector 0b0001 = .crc5Bitwise ∧
  decodeSelector 0b0010 = .tableBuild ∧ decodeSelector 0b0011 = .tableRead ∧
  decodeSelector 0b0100 = .crc5Fold ∧ decodeSelector 0b0101 = .symbolOf ∧
  decodeSelector 0b0110 = .digitOf ∧ decodeSelector 0b0111 = .splitWords ∧
  decodeSelector 0b1000 = .joinWords ∧ decodeSelector 0b1001 = .encodeWord ∧
  decodeSelector 0b1010 = .decodeGroup ∧ decodeSelector 0b1011 = .encodeKey ∧
  decodeSelector 0b1100 = .decodeKey ∧ decodeSelector 0b1101 = .renderDecoded ∧
  decodeSelector 0b1110 = .reserved1110 ∧ decodeSelector 0b1111 = .reserved1111 ∧
  decodeWord 0b10011 = .error .selectorTooWide

/-- Decode and encode agree on whole command sequences, both ways: a byte sequence decodes to exactly the instructions
whose encoding it is. That a byte with a bit above the selector is no command is the model's choice (log 8). -/
def Obligations.DecodedStreamIsExactlyItsEncoding : Prop :=
  ∀ (is : List Instr) (bs : List (BitVec 8)), decodeStream bs = .ok is ↔ bs = encodeStream is

/-- A step with a command on the port, no reset in it, is `exec` of the decoded instruction with the build agent's part
added, which in a ready state adds nothing. The host's input list is the model's own (log 5). -/
def Obligations.StepRunsDecodedCommand : Prop :=
  ∀ (s : State) (op : Selector) (i : Instr), s.port = some op → decodeSelector op = i → i.wellFormed = true →
    (s.inputs = [] → step s = mapNext tickBuild (exec i s)) ∧
    (∀ rest, s.inputs = .quiet :: rest → step s = mapNext tickBuild (exec i { s with inputs := rest })) ∧
    (∀ op' p rest, s.inputs = .command op' p :: rest → step s = mapNext tickBuild (exec i s)) ∧
    (s.tableReady = true → s.inputs = [] → step s = exec i s)

/-- 10_state.md R22 ("accepts at most one command at a time"): an idle port takes the command the host presents, a busy one
takes none. How that comes about is the model's choice (log 5) and no rule of the spec: the host's commands stand in an
input list, a presented command is taken in a step of its own, and one that finds the port busy stays in the list while
the step is the one it would be with no input. -/
def Obligations.CommandPortTakesOneCommandAtATime : Prop :=
  ∀ (s : State) (op : Selector) (p : OperandPorts) (rest : List HostInput), s.inputs = .command op p :: rest →
    (s.port = none →
      step s = .next (tickBuild { s with port := some op, ports := p, response := none, inputs := rest })) ∧
    (∀ op' t, s.port = some op' → step { s with inputs := [] } = .next t → step s = .next { t with inputs := s.inputs })

/-- 60_exceptions.md R116: an idle step changes no state (a response is readable once, 10_state.md R26). -/
def Obligations.IdleStepChangesNoState : Prop :=
  ∀ s : State, s.port = none → s.inputs = [] → s.tableReady = true → step s = .next { s with response := none }

/-- `withFetchWord` puts any row's instruction where the very next step runs it, from the reset state of every block
without capacity limits, and the command completes in that step (log 9). -/
def Obligations.PlacedCommandRunsInNextStep : Prop :=
  ∀ (i : Instr) (p : Params) (α : Alphabet) (junk : Table) (n : Nat), p.maxWords = none → p.maxText = none →
    let s := State.withFetchWord (State.resetWith p α junk n) 8 (encode i).toNat
    ∃ t, step s = .next t ∧ t.port = none ∧ t.response.isSome = true ∧
      exec i s = .next { t with table := s.table, tableReady := s.tableReady, buildDelay := s.buildDelay }

/-! ### Reset and the reset build -/

/-- 70_reset_and_hazards.md R117, 10_state.md R28: what an asserted reset leaves, the command on the port abandoned
without a response; with `BUILT_AT_RESET` the build starts and ends with a quiet host. The fields `ports`, `inputs` and
`params` staying is the model's (log 5), and so is the count of `buildDelay + 1` steps (logs 2 and 10). -/
def Obligations.ResetEventLeavesResetValues : Prop :=
  ∀ (s : State) (rest : List HostInput), s.inputs = .reset :: rest →
    ∃ t, step s = .next t ∧
      t.port = none ∧ t.response = none ∧ t.alpha = s.alpha ∧ (∀ c, readRev t.alpha c = readRev s.alpha c) ∧
      t.params = s.params ∧ t.ports = s.ports ∧ t.inputs = rest ∧
      (s.params.tableImpl = .rom → t.tableReady = true ∧ t.table = Config.romTable) ∧
      (s.params.tableImpl = .builtAtReset → t.tableReady = false ∧
        ∃ u, core.run (t.buildDelay + 1) { t with inputs := [] } = .next u ∧ u.tableReady = true ∧
          u.table = Config.romTable)

/-- 10_state.md R28: the state after power-on reset, for every parameter, every alphabet, every content of the unbuilt
table and every build length; `State.reset` is one of them (its zeros are the model's choice: logs 1, 3, 4, 5). -/
def Obligations.PowerOnResetValues : Prop :=
  (∀ (p : Params) (α : Alphabet) (junk : Table) (n : Nat), let s := State.resetWith p α junk n
    s.port = none ∧ s.response = none ∧ s.alpha = α ∧ (∀ c, readRev s.alpha c = readRev α c) ∧
    (p.tableImpl = .builtAtReset → s.tableReady = false ∧ s.table = junk) ∧
    (p.tableImpl = .rom → s.tableReady = true ∧ ∀ i : Digit, readTable s.table i = crc5 (i.setWidth 20))) ∧
  ∃ p α junk n, State.reset = State.resetWith p α junk n ∧ p.tableImpl = .builtAtReset ∧ alphabetOk α = true

/-- The invariant holds after power-on reset with any parameters, any admissible alphabet and any unbuilt table, and the
default alphabet is admissible (41_alphabet.md R71). -/
def Obligations.InvariantHoldsAtReset : Prop :=
  (∀ (p : Params) (α : Alphabet) (junk : Table) (n : Nat), alphabetOk α = true → (State.resetWith p α junk n).Inv) ∧
  alphabetOk Config.defaultAlphabet = true ∧ State.reset.Inv

/-- Every step keeps the invariant, from every state that has it. -/
def Obligations.EveryStepKeepsInvariant : Prop :=
  ∀ s t : State, s.Inv → step s = .next t → t.Inv

/-- 70_reset_and_hazards.md section 1: the completion of the reset build writes `crc5(zext_20(i))` to every entry and sets
`TABLE_READY`, whatever else the step does, a reset apart. Two parts of this are the model's reading: that the entries and
`TABLE_READY` change together, in the one step in which `buildDelay` is 0, is deduced (log 10); and the spec gives the
build with `BUILT_AT_RESET` only, while the statement also covers states with `ROM` and an unready table, which no run
reaches and in which the model's build agent acts all the same (log 14, a design choice). -/
def Obligations.ResetBuildWritesTableAndSetsReady : Prop :=
  ∀ s t : State, s.tableReady = false → s.buildDelay = 0 → (∀ rest, s.inputs ≠ .reset :: rest) → step s = .next t →
    t.tableReady = true ∧ ∀ i : Digit, readTable t.table i = crc5 (i.setWidth 20)

/-- 70_reset_and_hazards.md R120: once set, `TABLE_READY` stays 1 until the next reset, and no command clears it. -/
def Obligations.TableReadyStaysUntilReset : Prop :=
  (∀ s t : State, s.tableReady = true → (∀ rest, s.inputs ≠ .reset :: rest) → step s = .next t → t.tableReady = true) ∧
  (∀ (i : Instr) (s t : State), s.tableReady = true → exec i s = .next t → t.tableReady = true)

/-- 10_state.md section 2, an inference the spec marks as its own: while `TABLE_READY` = 1 every entry is `crc5` of its index, and no operation changes one. -/
def Obligations.ReadyTableHoldsCrcAndNeverChanges : Prop :=
  ∀ s : State, s.Inv → s.tableReady = true →
    (∀ i : Digit, readTable s.table i = crc5 (i.setWidth 20)) ∧
    (∀ (i : Instr) (t : State), exec i s = .next t → t.table = s.table) ∧
    (∀ t : State, (∀ rest, s.inputs ≠ .reset :: rest) → step s = .next t → t.table = s.table)

/-- 70_reset_and_hazards.md R122: exactly the seven operations that need `TABLE` are held while `TABLE_READY` = 0: nothing
is read, no response is given, the command stays on the port; in a state where the table is ready it is accepted and
answered; with `ROM` nothing is ever held. -/
def Obligations.TableOperationsAreHeldUntilReady : Prop :=
  (∀ i : Instr, needsTable i = true ↔
    i ∈ [Instr.tableBuild, .tableRead, .crc5Fold, .encodeWord, .decodeGroup, .encodeKey, .decodeKey]) ∧
  (∀ (i : Instr) (s : State), needsTable i = true → s.tableReady = false →
    exec i s = .next { s with response := none }) ∧
  (∀ (s t : State) (op : Selector), s.port = some op → needsTable (decodeSelector op) = true → s.tableReady = false →
    (∀ rest, s.inputs ≠ .reset :: rest) → step s = .next t →
    t.port = some op ∧ t.ports = s.ports ∧ t.response = none) ∧
  (∀ (s : State) (op : Selector), s.port = some op → s.tableReady = true → s.inputs = [] →
    withinCapacity (decodeSelector op) s = true → ∃ t, step s = .next t ∧ t.port = none ∧ t.response.isSome = true) ∧
  (∀ (i : Instr) (s : State), s.Inv → s.params.tableImpl = .rom → withinCapacity i s = true →
    ∃ t, exec i s = .next t ∧ t.port = none ∧ t.response.isSome = true)

/-- 70_reset_and_hazards.md R119, R122: with a quiet host (log 5) a held command stays on the port until the reset build
ends, is accepted in the first state where the table is ready, and the step after is its execution. That this takes
exactly `buildDelay + 1` steps is the model's count and no rule of the spec, which bounds no build: the length is a number
of the state (log 2, a design choice) and the completion is one step (log 10, deduced). That a held command is given no
response meanwhile is said by `TableOperationsAreHeldUntilReady`. -/
def Obligations.HeldCommandIsAcceptedWhenBuildEnds : Prop :=
  ∀ (s : State) (op : Selector), s.tableReady = false → s.port = some op → needsTable (decodeSelector op) = true →
    s.inputs = [] →
    (∀ k, k ≤ s.buildDelay → ∃ t, core.run k s = .next t ∧ t.tableReady = false ∧ t.port = some op) ∧
    ∃ t, core.run (s.buildDelay + 1) s = .next t ∧ t.tableReady = true ∧ t.table = Config.romTable ∧
      t.port = some op ∧ t.ports = s.ports ∧ t.response = none ∧ step t = exec (decodeSelector op) t

/-! ### Whole-machine rules over all commands -/

/-- The frame of every command (10_state.md R14, R21; 60_exceptions.md R102): from a good state, whatever a command does,
only the port and the response change. -/
def Obligations.CommandsChangeOnlyPortAndResponse : Prop :=
  ∀ (i : Instr) (s t : State), s.Inv → exec i s = .next t →
    t = { s with port := t.port, response := t.response } ∧
    ((t.port = none ∧ t.response.isSome = true) ∨
      (t.port = s.port ∧ t.response = none ∧ needsTable i = true ∧ s.tableReady = false))

/-- 30_encoding.md section 2: "A port not listed for an operation is not read by it, and its value has no effect". -/
def Obligations.UnlistedPortsHaveNoEffect : Prop :=
  ∀ (i : Instr) (s : State) (p : OperandPorts), (∀ n ∈ portsRead i, samePort p s.ports n = true) →
    exec i { s with ports := p } = mapNext (fun t => { t with ports := p }) (exec i s)

/-- 40_crc5.md R68, 70_reset_and_hazards.md R121: an operation that does not need `TABLE`, the bit-serial CRC among them,
does the same whatever `TABLE` and `TABLE_READY` hold. -/
def Obligations.OtherOperationsIgnoreTheTable : Prop :=
  ∀ (i : Instr) (s : State) (tb : Table) (b : Bool), needsTable i = false →
    exec i { s with table := tb, tableReady := b } =
      mapNext (fun t => { t with table := tb, tableReady := b }) (exec i s)

/-- 20_memory.md R41, 10_state.md R21: in a ready state the response to a command is the same whether or not another
command ran before it. -/
def Obligations.ResponsesDoNotDependOnEarlierCommands : Prop :=
  ∀ (i j : Instr) (s t : State) (p : OperandPorts), s.Inv → s.tableReady = true → exec j s = .next t →
    responseOf (exec i { t with ports := p }) = responseOf (exec i { s with ports := p })

/-- 10_state.md R24 with the types and sizes of 30_encoding.md R49: every response has a status, a result of the
operation's type exactly when the status is `OK`, and an `ERR_INFO` exactly when it is not. -/
def Obligations.ResponsesHaveTheirOperationsShape : Prop :=
  ∀ (i : Instr) (s t : State) (r : Response), exec i s = .next t → t.response = some r →
    (r.status = .ok → r.errInfo = none ∧ ∃ v, r.result = some v ∧ resultType i = some v.type ∧
      (∀ ds, i = .tableBuild → v = .digits ds → ds.length = 32) ∧
      (∀ ws, v = .words ws → 1 ≤ ws.length) ∧
      (∀ g, i = .encodeWord → v = .text g → g.length = 5) ∧
      (∀ rs, v = .results rs → 1 ≤ rs.length)) ∧
    (r.status ≠ .ok → r.result = none ∧ r.errInfo.isSome = true)

/-- 60_exceptions.md R97: the status codes, distinct and none of `101` to `111`, and which operation gives which. -/
def Obligations.StatusesComeFromTheirOperations : Prop :=
  Status.code .ok = 0b000 ∧ Status.code .invalidLength = 0b001 ∧ Status.code .invalidSymbol = 0b010 ∧
  Status.code .checksumMismatch = 0b011 ∧ Status.code .illegalOp = 0b100 ∧ Function.Injective Status.code ∧
  ∀ (i : Instr) (s t : State) (r : Response), exec i s = .next t → t.response = some r →
    Status.code r.status < 0b101 ∧
    (r.status = .invalidLength → i = .decodeGroup) ∧
    (r.status = .invalidSymbol → i = .digitOf ∨ i = .decodeGroup) ∧
    (r.status = .checksumMismatch → i = .decodeGroup) ∧
    (r.status = .illegalOp ↔ isReserved i = true)

/-- 60_exceptions.md R102: an error writes no state and leaves the block ready for the next command. The second clause
shows that readiness through the model's own input list (log 5, a design choice and no rule of the spec): a command at
its head is taken in the very next step. -/
def Obligations.ErrorsWriteNoStateAndLeaveBlockReady : Prop :=
  ∀ (i : Instr) (s t : State) (r : Response), exec i s = .next t → t.response = some r → r.status ≠ .ok →
    t = answered s r ∧
    ∀ op p rest, ∃ u, step { t with inputs := .command op p :: rest } = .next u ∧ u.port = some op ∧ u.ports = p

/-- 60_exceptions.md section 2: the order of the conditions, first match wins. In the third place R103 says "an operand or
result"; the statement goes by operands alone, as R105 lists them, which is the model's reading (log 11, deduced):
`JOIN_WORDS` of no words with `P_MAX_WORDS = 0` completes. -/
def Obligations.ConditionsAreCheckedInOrder : Prop :=
  ∀ (i : Instr) (s : State),
    (isReserved i = true → exec i s = .next (answered s (Response.error .illegalOp (.ofOp (encode i))))) ∧
    (isReserved i = false → needsTable i = true → s.tableReady = false → exec i s = .next { s with response := none }) ∧
    (isReserved i = false → (needsTable i = true → s.tableReady = true) → withinCapacity i s = false →
      exec i s = .refused .tooManyWords ∨ exec i s = .refused .sequenceTooLong) ∧
    (isReserved i = false → (needsTable i = true → s.tableReady = true) → withinCapacity i s = true →
      ∃ t r, exec i s = .next t ∧ t.port = none ∧ t.response = some r ∧
        (i = .decodeGroup →
          (s.ports.text.length ≠ 5 → r.status = .invalidLength) ∧
          (s.ports.text.length = 5 → ∀ k c, firstUnresolved s.alpha s.ports.text k c →
            r.status = .invalidSymbol ∧ r.errInfo = some (.ofGroup (.invalidSymbol s.ports.text k c))) ∧
          (∀ a b c d e, resolvesTo s.alpha s.ports.text [a, b, c, d, e] →
            (r.status = .checksumMismatch ↔ fold s.table [a, b, c, d] ≠ e))))

/-- 60_exceptions.md section 2: the operands of R105's list beyond capacity are refused, and with both parameters `∞` nothing
is: every step answers. That they alone are refused, and no result, is the model's reading of "an operand or result" in
R103 (log 11, deduced): `JOIN_WORDS` of no words with `P_MAX_WORDS = 0` is not refused. -/
def Obligations.OnlyOperandsBeyondCapacityAreRefused : Prop :=
  (∀ (i : Instr) (s : State), exec i s = .refused .tooManyWords ↔
    (∃ m, s.params.maxWords = some m ∧
      ((i = .splitWords ∧ m < (splitWords s.ports.nat).length) ∨
        (i = .encodeKey ∧ s.tableReady = true ∧ m < (splitWords s.ports.nat).length) ∨
        (i = .joinWords ∧ m < s.ports.words.length)))) ∧
  (∀ (i : Instr) (s : State), exec i s = .refused .sequenceTooLong ↔
    (∃ m, s.params.maxText = some m ∧
      ((i = .crc5Fold ∧ s.tableReady = true ∧ m < s.ports.digits.length) ∨
        ((i = .decodeGroup ∨ i = .decodeKey) ∧ s.tableReady = true ∧ m < s.ports.text.length) ∨
        (i = .renderDecoded ∧ m < s.ports.results.length)))) ∧
  (∀ s : State, s.params.maxWords = none → s.params.maxText = none → ∃ t, step s = .next t)

/-- 30_encoding.md R51, 60_exceptions.md R101: a reserved selector completes at once in every state, held by nothing,
with `ILLEGAL_OP` and its own selector as payload, and writes no state. -/
def Obligations.ReservedSelectorsAnswerIllegalOp : Prop :=
  ∀ s : State,
    exec .reserved0000 s = .next (answered s { status := .illegalOp, result := none, errInfo := some (.ofOp 0b0000) }) ∧
    exec .reserved1110 s = .next (answered s { status := .illegalOp, result := none, errInfo := some (.ofOp 0b1110) }) ∧
    exec .reserved1111 s = .next (answered s { status := .illegalOp, result := none, errInfo := some (.ofOp 0b1111) })

/-! ### The CRC-5 engine -/

/-- 40_crc5.md R59: `CRC5_BITWISE` answers `crc5` in every state, held by nothing; the pseudocode of `crc5` step by step,
and the spec's own values. -/
def Obligations.Crc5BitwiseAnswersBitSerialCrc : Prop :=
  (∀ s : State, exec .crc5Bitwise s =
    .next (answered s { status := .ok, result := some (.digit (crc5 s.ports.u20)), errInfo := none })) ∧
  (∀ n : Word, crc5 n = (crcSteps 20 (n.setWidth 25 <<< 5)).extractLsb' 0 5) ∧
  (∀ (k : Nat) (r : BitVec 25), crcSteps (k + 1) r = crcSteps k (crcStep k r)) ∧ (∀ r : BitVec 25, crcSteps 0 r = r) ∧
  (∀ (r : BitVec 25) (i : Nat), i < 20 →
    crcStep i r = if r[i + 5]! = true then r ^^^ ((0b100101 : BitVec 25) <<< i) else r) ∧
  crc5 0 = 0 ∧ crc5 0x12345 = 12

/-- 40_crc5.md section 1, the algebraic meaning of `crc5` and the corner case "`r[4:0]` is the whole register", both
inferences the spec marks as its own: `crc5(n)` is the remainder of `N(x)·x^5` modulo `x^5 + x^2 + 1` over GF(2), and the
register after the loop holds nothing else. -/
def Obligations.Crc5IsPolynomialRemainder : Prop :=
  (∀ (n : Word) (N : Polynomial (ZMod 2)), IsPoly N n →
    IsPoly ((N * Polynomial.X ^ 5) %ₘ (Polynomial.X ^ 5 + Polynomial.X ^ 2 + 1)) (crc5 n)) ∧
  (∀ n : Word, crcSteps 20 (n.setWidth 25 <<< 5) = (crc5 n).setWidth 25)

/-- 40_crc5.md R62: `TABLE_BUILD` writes and returns `crc5` of every index, which are the 32 values the spec prints (values
"computed from rule R59", an inference the spec marks as its own); from a good state that changes no entry. -/
def Obligations.TableBuildAnswersPrintedTable : Prop :=
  (∀ s : State, s.tableReady = true →
    exec .tableBuild s = .next (answered { s with table := Config.romTable }
      { status := .ok
        result := some (.digits
          [0, 5, 10, 15, 20, 17, 30, 27, 13, 8, 7, 2, 25, 28, 19, 22, 26, 31, 16, 21, 14, 11, 4, 1, 23, 18, 29, 24,
           3, 6, 9, 12])
        errInfo := none })) ∧
  (∀ i : Digit, readTable Config.romTable i = crc5 (i.setWidth 20)) ∧
  (∀ s : State, s.Inv → s.tableReady = true → { s with table := Config.romTable } = s) ∧
  (∀ s : State, s.tableReady = false → exec .tableBuild s = .next { s with response := none })

/-- 40_crc5.md R63: `TABLE_READ` answers the entry, in a good state the constant one; held until ready. -/
def Obligations.TableReadAnswersEntry : Prop :=
  (∀ s : State, s.tableReady = true → exec .tableRead s =
    .next (answered s { status := .ok, result := some (.digit (s.table[s.ports.d5.toNat]!)), errInfo := none })) ∧
  (∀ s : State, s.Inv → s.tableReady = true → exec .tableRead s =
    .next (answered s { status := .ok, result := some (.digit (crc5 (s.ports.d5.setWidth 20))), errInfo := none })) ∧
  (∀ s : State, s.tableReady = false → exec .tableRead s = .next { s with response := none }) ∧
  crc5 0 = 0 ∧ crc5 8 = 13 ∧ crc5 31 = 12

/-- 40_crc5.md R64: `CRC5_FOLD` answers the fold, which goes digit by digit through the table; its corner cases. -/
def Obligations.Crc5FoldAnswersFold : Prop :=
  (∀ s : State, s.tableReady = true → fits s.params.maxText s.ports.digits.length = true → exec .crc5Fold s =
    .next (answered s { status := .ok, result := some (.digit (fold s.table s.ports.digits)), errInfo := none })) ∧
  (∀ s : State, s.tableReady = true → fits s.params.maxText s.ports.digits.length = false →
    exec .crc5Fold s = .refused .sequenceTooLong) ∧
  (∀ s : State, s.tableReady = false → exec .crc5Fold s = .next { s with response := none }) ∧
  (∀ (t : Table) (ds : List Digit) (d : Digit), fold t (ds ++ [d]) = t[(d ^^^ fold t ds).toNat]!) ∧
  (∀ t : Table, fold t [] = 0) ∧ (∀ (t : Table) (d : Digit), fold t [d] = t[d.toNat]!) ∧
  (∀ ds : List Digit, fold Config.romTable (0 :: ds) = fold Config.romTable ds) ∧
  (∀ n : Nat, fold Config.romTable (List.replicate n 0) = 0) ∧ fold Config.romTable [2, 8, 26, 5] = 12

/-- 40_crc5.md section 3, the algebraic meaning of `fold`, an inference the spec marks as its own: the fold of any digit
sequence is the remainder of its message times `x^5`. -/
def Obligations.FoldIsPolynomialRemainder : Prop :=
  ∀ (ds : List Digit) (M : Polynomial (ZMod 2)), IsMessage ds M →
    IsPoly ((M * Polynomial.X ^ 5) %ₘ (Polynomial.X ^ 5 + Polynomial.X ^ 2 + 1)) (fold Config.romTable ds)

/-- 40_crc5.md R66: the two independently written paths agree on every 20-bit value. -/
def Obligations.BitSerialAndTableDrivenPathsAgree : Prop :=
  ∀ n : Word, crc5 n = fold Config.romTable (digits4 n)

/-- 40_crc5.md section 4, the agreement for sequences of at most four digits, an inference the spec marks as its own. -/
def Obligations.FoldOfShortSequencesIsCrc5 : Prop :=
  ∀ ds : List Digit, ds.length ≤ 4 → fold Config.romTable ds = crc5 (BitVec.ofNat 20 (reassemble ds)) ∧
    reassemble ds < 2 ^ (5 * ds.length)

/-- 40_crc5.md section 4, properties of the table "not stated by the source", inferences the spec marks as its own: a
permutation, linear over XOR, zero only at zero; `crc5` is linear. -/
def Obligations.TableIsLinearPermutation : Prop :=
  Function.Bijective (readTable Config.romTable) ∧
  (∀ u v : Digit, readTable Config.romTable (u ^^^ v) = readTable Config.romTable u ^^^ readTable Config.romTable v) ∧
  (∀ v : Digit, readTable Config.romTable v = 0 ↔ v = 0) ∧
  (∀ m n : Word, crc5 (m ^^^ n) = crc5 m ^^^ crc5 n)

/-! ### The alphabet -/

/-- 41_alphabet.md R72: case folding, and codes from 0x80 up never resolve. -/
def Obligations.CaseFoldingMapsLowercaseLettersOnly : Prop :=
  (∀ c : Code, 0x61 ≤ c → c ≤ 0x7A → casefold c = c - 0x20) ∧
  (∀ c : Code, c < 0x61 ∨ 0x7A < c → casefold c = c) ∧
  (∀ (α : Alphabet) (c : Code), alphabetOk α = true → 0x80 ≤ c → casefold c = c ∧ digitOf α c = none)

/-- 41_alphabet.md R73: `SYMBOL_OF` answers `ALPHA[A_D5]` in every state; digit 0 is `'2'` and no result is lowercase. -/
def Obligations.SymbolOfAnswersAlphabetEntry : Prop :=
  ∀ s : State,
    exec .symbolOf s = .next (answered s
      { status := .ok, result := some (.code (s.alpha[s.ports.d5.toNat]!)), errInfo := none }) ∧
    (alphabetOk s.alpha = true →
      (s.ports.d5 = 0 → s.alpha[s.ports.d5.toNat]! = 0x32) ∧
      ¬(0x61 ≤ s.alpha[s.ports.d5.toNat]! ∧ s.alpha[s.ports.d5.toNat]! ≤ 0x7A)) ∧
    (s.alpha = Config.defaultAlphabet →
      (s.ports.d5 = 12 → s.alpha[s.ports.d5.toNat]! = 0x45) ∧ (s.ports.d5 = 31 → s.alpha[s.ports.d5.toNat]! = 0x5A))

/-- 41_alphabet.md R74: `DIGIT_OF` answers the one digit whose symbol is the folded character, or raises
`INVALID_SYMBOL(pos = 0, char)` with the character as presented; never held. -/
def Obligations.DigitOfAnswersDigitOrInvalidSymbol : Prop :=
  (∀ s : State, alphabetOk s.alpha = true →
    (∀ d : Digit, s.alpha[d.toNat]! = casefold s.ports.char → exec .digitOf s =
      .next (answered s { status := .ok, result := some (.digit d), errInfo := none })) ∧
    ((∀ d : Digit, s.alpha[d.toNat]! ≠ casefold s.ports.char) → exec .digitOf s =
      .next (answered s
        { status := .invalidSymbol, result := none, errInfo := some (.ofChar 0 s.ports.char) }))) ∧
  (∀ c ∈ ([0x30, 0x31, 0x4F, 0x49, 0x6F, 0x69, 0x2D, 0x3F, 0x20, 0x00] : Text),
    digitOf Config.defaultAlphabet c = none) ∧
  digitOf Config.defaultAlphabet 0x6C = some 18 ∧ digitOf Config.defaultAlphabet 0x65 = some 12

/-- 41_alphabet.md section 2, the round trips of the alphabet, an inference the spec marks as its own. -/
def Obligations.AlphabetRoundTrips : Prop :=
  ∀ α : Alphabet, alphabetOk α = true →
    (∀ d : Digit, digitOf α (readAlpha α d) = some d) ∧
    (∀ (c : Code) (d : Digit), digitOf α c = some d → readAlpha α d = casefold c)

/-! ### Words -/

/-- 42_words.md R76: `SPLIT_WORDS` answers the words of the operand, most significant first, or is refused beyond
capacity; never held. The splitting loop's equations, and the spec's own values. -/
def Obligations.SplitWordsAnswersBigEndianLimbs : Prop :=
  (∀ s : State, fits s.params.maxWords (splitWords s.ports.nat).length = true → exec .splitWords s =
    .next (answered s { status := .ok, result := some (.words (splitWords s.ports.nat)), errInfo := none })) ∧
  (∀ s : State, fits s.params.maxWords (splitWords s.ports.nat).length = false →
    exec .splitWords s = .refused .tooManyWords) ∧
  (∀ n : Nat, n / 2 ^ 20 = 0 → splitWords n = [BitVec.ofNat 20 n]) ∧
  (∀ n : Nat, n / 2 ^ 20 ≠ 0 → splitWords n = splitWords (n / 2 ^ 20) ++ [BitVec.ofNat 20 (n % 2 ^ 20)]) ∧
  splitWords 0 = [0] ∧ splitWords 0xFFFFF = [0xFFFFF] ∧ splitWords 0x100000 = [1, 0] ∧
  splitWords 0x123456789ABCDEF = [0x12345, 0x6789A, 0xBCDEF]

/-- 42_words.md R77: `JOIN_WORDS` answers the left fold `acc = (acc << 20) | word` of its operand, or is refused beyond
capacity; never held. -/
def Obligations.JoinWordsAnswersLeftFold : Prop :=
  (∀ s : State, fits s.params.maxWords s.ports.words.length = true → exec .joinWords s =
    .next (answered s { status := .ok, result := some (.nat (joinWords s.ports.words)), errInfo := none })) ∧
  (∀ s : State, fits s.params.maxWords s.ports.words.length = false → exec .joinWords s = .refused .tooManyWords) ∧
  joinWords [] = 0 ∧ (∀ (ws : List Word) (w : Word), joinWords (ws ++ [w]) = (joinWords ws <<< 20) ||| w.toNat) ∧
  (∀ ws : List Word, joinWords (0 :: ws) = joinWords ws) ∧
  joinWords [0x12345, 0x6789A, 0xBCDEF] = 0x123456789ABCDEF

/-- 42_words.md R78: joining the words of a split integer gives it back. -/
def Obligations.JoinOfSplitIsIdentity : Prop :=
  ∀ n : Nat, joinWords (splitWords n) = n

/-- 42_words.md, inferences the spec marks as its own: exactly which word sequences splitting gives back; the number of
words and the first word of a split; the value of a join as a sum over big-endian places. -/
def Obligations.SplitOfJoinIsIdentityExactly : Prop :=
  (∀ ws : List Word, splitWords (joinWords ws) = ws ↔ ws ≠ [] ∧ (ws.length = 1 ∨ ws.head? ≠ some 0)) ∧
  (∀ n : Nat, (splitWords n).length = max 1 ((n.size + 19) / 20)) ∧
  (∀ n : Nat, n ≠ 0 → (splitWords n).head? ≠ some 0) ∧
  (∀ ws : List Word, joinWords ws = Nat.ofDigits (2 ^ 20) (ws.reverse.map BitVec.toNat))

/-! ### Groups -/

/-- 43_group_encoder.md R80: `ENCODE_WORD` answers the symbols of the four data digits, most significant first, and of the
check digit, which is the fold of the four; held until ready; the word 0 gives `"22222"` under every admissible
alphabet; the spec's own groups. -/
def Obligations.EncodeWordAnswersGroup : Prop :=
  (∀ s : State, s.tableReady = true → ∀ a b c d e : Digit,
    a = s.ports.u20.extractLsb' 15 5 → b = s.ports.u20.extractLsb' 10 5 → c = s.ports.u20.extractLsb' 5 5 →
    d = s.ports.u20.extractLsb' 0 5 → e = fold s.table [a, b, c, d] →
    exec .encodeWord s = .next (answered s
      { status := .ok
        result := some (.text [readAlpha s.alpha a, readAlpha s.alpha b, readAlpha s.alpha c, readAlpha s.alpha d,
          readAlpha s.alpha e])
        errInfo := none })) ∧
  (∀ s : State, s.Inv → s.tableReady = true → s.ports.u20 = 0 → exec .encodeWord s = .next (answered s
    { status := .ok, result := some (.text [0x32, 0x32, 0x32, 0x32, 0x32]), errInfo := none })) ∧
  (∀ s : State, s.tableReady = false → exec .encodeWord s = .next { s with response := none }) ∧
  encodeWord Config.defaultAlphabet Config.romTable 0x12345 = [0x34, 0x41, 0x55, 0x37, 0x45] ∧
  encodeWord Config.defaultAlphabet Config.romTable 0xFFFFF = [0x5A, 0x5A, 0x5A, 0x5A, 0x52]

/-- 43_group_encoder.md, inferences the spec marks as its own: five digits fold to zero exactly when the fifth is the check
digit of the first four, so that an encoded group folds to zero; its check digit is the bit-serial CRC of the word. -/
def Obligations.GroupDigitsFoldToZeroExactly : Prop :=
  (∀ a b c d e : Digit, fold Config.romTable [a, b, c, d, e] = 0 ↔ e = fold Config.romTable [a, b, c, d]) ∧
  (∀ w : Word, fold Config.romTable (groupDigits Config.romTable w) = 0) ∧
  ∀ w : Word, groupDigits Config.romTable w = digits4 w ++ [crc5 w]

/-- 43_group_encoder.md, an inference the spec marks as its own: distinct words give distinct groups. -/
def Obligations.EncodeWordIsInjective : Prop :=
  ∀ (α : Alphabet) (t : Table), alphabetOk α = true → Function.Injective (encodeWord α t)

/-- 44_group_decoder.md R84: `DECODE_GROUP` case by case. -/
def Obligations.DecodeGroupAnswersWordOrFirstError : Prop :=
  (∀ s : State, s.tableReady = true → fits s.params.maxText s.ports.text.length = true →
    (s.ports.text.length ≠ 5 → exec .decodeGroup s = .next (answered s
      { status := .invalidLength, result := none
        errInfo := some (.ofGroup (.invalidLength s.ports.text s.ports.text.length)) })) ∧
    (s.ports.text.length = 5 → ∀ k c, firstUnresolved s.alpha s.ports.text k c →
      exec .decodeGroup s = .next (answered s
        { status := .invalidSymbol, result := none
          errInfo := some (.ofGroup (.invalidSymbol s.ports.text k c)) })) ∧
    (∀ a b c d e : Digit, resolvesTo s.alpha s.ports.text [a, b, c, d, e] → fold s.table [a, b, c, d] ≠ e →
      exec .decodeGroup s = .next (answered s
        { status := .checksumMismatch, result := none
          errInfo := some (.ofGroup (.checksumMismatch s.ports.text e (fold s.table [a, b, c, d]))) })) ∧
    (∀ a b c d e : Digit, resolvesTo s.alpha s.ports.text [a, b, c, d, e] → fold s.table [a, b, c, d] = e →
      exec .decodeGroup s = .next (answered s
        { status := .ok
          result := some (.word (BitVec.ofNat 20 (reassemble [a, b, c, d])))
          errInfo := none }))) ∧
  (∀ s : State, s.tableReady = false → exec .decodeGroup s = .next { s with response := none }) ∧
  decodeGroup Config.defaultAlphabet Config.romTable [0x34, 0x41, 0x55, 0x37, 0x45] = .accepted 0x12345 ∧
  decodeGroup Config.defaultAlphabet Config.romTable [0x34, 0x41, 0x55, 0x37, 0x46] =
    .rejected (.checksumMismatch [0x34, 0x41, 0x55, 0x37, 0x46] 13 12)

/-- 60_exceptions.md R98, R99, R100: the payload of every error says what is wrong with the group, in `DECODE_GROUP`'s
response and field by field in `DECODE_KEY`'s results; `DIGIT_OF` reports the character as presented at position 0. -/
def Obligations.ErrorPayloadsDescribeTheirCause : Prop :=
  (∀ (s t : State) (r : Response), exec .decodeGroup s = .next t → t.response = some r → r.status ≠ .ok →
    ∃ e, r = Response.error e.kind.status (.ofGroup e) ∧ payloadFits s.alpha s.table s.ports.text e) ∧
  (∀ (s t : State) (rs : List GroupResult), exec .decodeKey s = .next t →
    t.response = some (Response.ok (.results rs)) → ∀ (j : Nat) (e : GroupError), rs[j]? = some (.rejected e) →
    ∃ g, (splitKey s.ports.text)[j]? = some g ∧ payloadFits s.alpha s.table g e) ∧
  (∀ (s t : State) (r : Response), exec .digitOf s = .next t → t.response = some r → r.status ≠ .ok →
    r = Response.error .invalidSymbol (.ofChar 0 s.ports.char) ∧ digitOf s.alpha s.ports.char = none)

/-- 44_group_decoder.md R85: the source's state machine, run from `Parsing`, ends in a terminal phase after at most three
transitions, stays there, and its verdict is the decoder's. -/
def Obligations.DecoderRefinesItsStateMachine : Prop :=
  ∀ (α : Alphabet) (t : Table) (g : Text),
    DecoderPhase.result? ((decoderNext α t g)^[3] .parsing) = some (decodeGroup α t g) ∧
    (∀ k, (decoderNext α t g)^[k + 3] .parsing = (decoderNext α t g)^[3] .parsing) ∧
    (decoderNext α t g .parsing = .symbolCheck ↔ g.length = 5) ∧
    (∀ ds, decoderNext α t g .symbolCheck = .checksumCheck ds ↔ resolvesTo α g ds)

/-- 44_group_decoder.md R86: decoding an encoded word gives it back, and letter case does not matter (the second an
inference the spec marks as its own). -/
def Obligations.GroupRoundTripAndCaseInsensitivity : Prop :=
  (∀ (α : Alphabet) (t : Table) (w : Word), alphabetOk α = true →
    decodeGroup α t (encodeWord α t w) = .accepted w) ∧
  (∀ (α : Alphabet) (t : Table) (g : Text), sameVerdict (decodeGroup α t g) (decodeGroup α t (g.map casefold)))

/-- 44_group_decoder.md R87, what the spec infers of the source's property: one character of a valid group replaced by a
different symbol of the alphabet gives `CHECKSUM_MISMATCH`, and by a character that resolves to no symbol
`INVALID_SYMBOL` at its position. A lowercase letter is no symbol of the alphabet: it decodes as the symbol it folds to
(`GroupRoundTripAndCaseInsensitivity`), and a change of letter case alone is no error. -/
def Obligations.SingleCharacterErrorsAreDetected : Prop :=
  ∀ (α : Alphabet) (w : Word) (k : Nat) (c : Code), alphabetOk α = true → k < 5 →
    ((∃ d, readAlpha α d = c) → (encodeWord α Config.romTable w)[k]? ≠ some c →
      ∃ actual expected, decodeGroup α Config.romTable ((encodeWord α Config.romTable w).set k c) =
        .rejected (.checksumMismatch ((encodeWord α Config.romTable w).set k c) actual expected)) ∧
    (digitOf α c = none →
      decodeGroup α Config.romTable ((encodeWord α Config.romTable w).set k c) =
        .rejected (.invalidSymbol ((encodeWord α Config.romTable w).set k c) k c))

/-- 44_group_decoder.md, "not a source statement", an inference the spec marks as its own: adjacent transpositions of different symbols are detected; of the 9,610 patterns that change
two digits exactly 310 pass, whatever the word; a change of letter case alone decodes to the same word. -/
def Obligations.MultiCharacterErrorDetection : Prop :=
  ∀ (α : Alphabet) (w : Word), alphabetOk α = true →
    (∀ (k : Nat) (x y : Code), k < 4 → (encodeWord α Config.romTable w)[k]? = some x →
      (encodeWord α Config.romTable w)[k + 1]? = some y → x ≠ y →
      (decodeGroup α Config.romTable (((encodeWord α Config.romTable w).set k y).set (k + 1) x)).isAccepted = false) ∧
    doubleChanges.length = 9610 ∧
    (doubleChanges.filter fun p =>
      (decodeGroup α Config.romTable ((changeDigit (changeDigit (groupDigits Config.romTable w) p.1 p.2.2.1)
        p.2.1 p.2.2.2).map (readAlpha α))).isAccepted).length = 310 ∧
    (∀ g : Text, g.map casefold = encodeWord α Config.romTable w → decodeGroup α Config.romTable g = .accepted w)

/-! ### Keys -/

/-- 45_key.md R89: `ENCODE_KEY` answers the groups of the operand's words joined by `'-'`, or is refused beyond
capacity, or held; 0 gives `"22222"`. -/
def Obligations.EncodeKeyAnswersJoinedGroups : Prop :=
  (∀ s : State, s.tableReady = true → fits s.params.maxWords (splitWords s.ports.nat).length = true →
    ∃ txt, exec .encodeKey s = .next (answered s { status := .ok, result := some (.text txt), errInfo := none }) ∧
      (∀ w ws, splitWords s.ports.nat = w :: ws → txt = ws.foldl
        (fun out v => out ++ [0x2D] ++ encodeWord s.alpha s.table v) (encodeWord s.alpha s.table w)) ∧
      (s.Inv → s.ports.nat = 0 → txt = [0x32, 0x32, 0x32, 0x32, 0x32])) ∧
  (∀ s : State, s.tableReady = true → fits s.params.maxWords (splitWords s.ports.nat).length = false →
    exec .encodeKey s = .refused .tooManyWords) ∧
  (∀ s : State, s.tableReady = false → exec .encodeKey s = .next { s with response := none })

/-- 30_encoding.md section 4, the shape of a key text (its length an inference the spec marks as its own): `6k - 1` characters for `k` groups, a separator exactly between
consecutive groups and none at either end, every other character an alphabet symbol. -/
def Obligations.KeyTextHasItsShape : Prop :=
  ∀ (α : Alphabet) (t : Table) (n : Nat), alphabetOk α = true →
    (encodeKey α t n).length = 6 * (splitWords n).length - 1 ∧
    ∀ (j : Nat) (c : Code), (encodeKey α t n)[j]? = some c →
      (j % 6 = 5 → c = 0x2D) ∧ (j % 6 ≠ 5 → c ≠ 0x2D ∧ ∃ d, readAlpha α d = c)

/-- 45_key.md R90: the fields of a text, joined again by `'-'`, are the text; no field holds a separator; there is one
field more than separators. -/
def Obligations.SplitKeyCutsAtEverySeparator : Prop :=
  ∀ t : Text, ([0x2D] : Text).intercalate (splitKey t) = t ∧ (∀ f ∈ splitKey t, (0x2D : Code) ∉ f) ∧
    (splitKey t).length = t.count 0x2D + 1

/-- 45_key.md R91: `DECODE_KEY` answers, always with `OK`, the verdict of every field in order; held like every operation
that needs the table. -/
def Obligations.DecodeKeyAnswersEveryField : Prop :=
  (∀ s : State, s.tableReady = true → fits s.params.maxText s.ports.text.length = true →
    ∃ rs, exec .decodeKey s = .next (answered s { status := .ok, result := some (.results rs), errInfo := none }) ∧
      rs.length = s.ports.text.count 0x2D + 1 ∧
      ∀ fs : List Text, fs ≠ [] → (∀ f ∈ fs, (0x2D : Code) ∉ f) → ([0x2D] : Text).intercalate fs = s.ports.text →
        rs = fs.map (decodeGroup s.alpha s.table)) ∧
  (∀ s : State, s.tableReady = false → exec .decodeKey s = .next { s with response := none })

/-- 45_key.md R92: changing one field of a key changes only that field's verdict. -/
def Obligations.OneFieldAffectsOnlyItsOwnResult : Prop :=
  ∀ (α : Alphabet) (t : Table) (fs : List Text) (j : Nat) (f : Text), j < fs.length →
    (∀ g ∈ fs, (0x2D : Code) ∉ g) → (0x2D : Code) ∉ f →
    decodeKey α t (([0x2D] : Text).intercalate (fs.set j f)) =
      (decodeKey α t (([0x2D] : Text).intercalate fs)).set j (decodeGroup α t f)

/-- 45_key.md R93, R94: `RENDER_DECODED` answers five characters for every result at its place: the word's lowercase
hexadecimal digits, or five `'?'` for every kind of error; never held. -/
def Obligations.RenderDecodedAnswersFiveCharactersEach : Prop :=
  (∀ s : State, fits s.params.maxText s.ports.results.length = true →
    ∃ txt, exec .renderDecoded s = .next (answered s { status := .ok, result := some (.text txt), errInfo := none }) ∧
      txt.length = 5 * s.ports.results.length ∧
      (∀ (j : Nat) (w : Word), s.ports.results[j]? = some (.accepted w) →
        (txt.drop (5 * j)).take 5 = hexPad 5 w.toNat) ∧
      (∀ (j : Nat) (e : GroupError), s.ports.results[j]? = some (.rejected e) →
        (txt.drop (5 * j)).take 5 = [0x3F, 0x3F, 0x3F, 0x3F, 0x3F])) ∧
  (∀ s : State, fits s.params.maxText s.ports.results.length = false → exec .renderDecoded s = .refused .sequenceTooLong) ∧
  (∀ v : BitVec 4, hexDigit v = if v < 10 then 0x30 + v.setWidth 8 else 0x57 + v.setWidth 8)

/-- 45_key.md section 4, an inference the spec marks as its own: with every group accepted, the rendering is the joined
integer in hexadecimal, padded to five digits a word. -/
def Obligations.RenderingOfAcceptedWordsIsJoinedHex : Prop :=
  ∀ ws : List Word, render (ws.map GroupResult.accepted) = hexPad (5 * ws.length) (joinWords ws)

/-- 45_key.md section 4, the key round trip (an inference the spec marks as its own), through the commands, with both
capacities `∞`: a key encoded by `ENCODE_KEY` and given to `DECODE_KEY` yields the words of the integer, all accepted,
which `JOIN_WORDS` joins to the integer and `RENDER_DECODED` renders as its hexadecimal digits. -/
def Obligations.KeyRoundTripThroughCommands : Prop :=
  ∀ s : State, s.Inv → s.tableReady = true → s.params.maxWords = none → s.params.maxText = none →
    ∃ txt, exec .encodeKey s = .next (answered s (Response.ok (.text txt))) ∧
      (∀ p : OperandPorts, p.text = txt → exec .decodeKey { s with ports := p } =
        .next (answered { s with ports := p }
          (Response.ok (.results ((splitWords s.ports.nat).map GroupResult.accepted))))) ∧
      (∀ p : OperandPorts, p.words = splitWords s.ports.nat → exec .joinWords { s with ports := p } =
        .next (answered { s with ports := p } (Response.ok (.nat s.ports.nat)))) ∧
      (∀ p : OperandPorts, p.results = (splitWords s.ports.nat).map GroupResult.accepted →
        exec .renderDecoded { s with ports := p } = .next (answered { s with ports := p }
          (Response.ok (.text (hexPad (5 * (splitWords s.ports.nat).length) s.ports.nat)))))

/-! ### The assembly syntax -/

/-- 30_encoding.md section 5: presenting an assembled line puts its selector on the command port and its operand on the
port the operation reads. The payload of a written `err(KIND)` and the ports a line leaves alone are arguments (log 7). -/
def Obligations.AssembledLinePresentsSelectorAndOperand : Prop :=
  ∀ (l : AsmLine) (fill : ErrKind → GroupError) (base : OperandPorts) (s : State) (rest : List HostInput),
    s.port = none → s.inputs = assemble fill base l :: rest →
    ∃ t, step s = .next t ∧ t.port = some (encode l.instr) ∧ (∀ op, t.port = some op → decodeSelector op = l.instr) ∧
      (∀ n, n ∉ portsRead l.instr → samePort t.ports base n = true) ∧
      (∀ v, l = .crc5Bitwise v ∨ l = .encodeWord v → t.ports.u20 = v) ∧
      (∀ d, l = .tableRead d ∨ l = .symbolOf d → t.ports.d5 = d) ∧
      (∀ c, l = .digitOf c → t.ports.char = c) ∧
      (∀ ds, l = .crc5Fold ds → t.ports.digits = ds) ∧
      (∀ ws, l = .joinWords ws → t.ports.words = ws) ∧
      (∀ n, l = .splitWords n ∨ l = .encodeKey n → t.ports.nat = n) ∧
      (∀ x, l = .decodeGroup x ∨ l = .decodeKey x → t.ports.text = x) ∧
      (∀ rs, l = .renderDecoded rs → t.ports.results = rs.map (asmResultValue fill))
end

