-- ==== Sys2Proof/Laws/State.lean ====
section
/-!
SUPPORT. One lemma for each field of each named update of the state, so that no later proof unfolds an update.
-/

namespace Sys2Proof.Machine

/-! ### Completing a command -/

@[simp] theorem answered_params (s : State) (r : Response) : (answered s r).params = s.params := rfl
@[simp] theorem answered_table (s : State) (r : Response) : (answered s r).table = s.table := rfl
@[simp] theorem answered_tableReady (s : State) (r : Response) : (answered s r).tableReady = s.tableReady := rfl
@[simp] theorem answered_alpha (s : State) (r : Response) : (answered s r).alpha = s.alpha := rfl
@[simp] theorem answered_port (s : State) (r : Response) : (answered s r).port = none := rfl
@[simp] theorem answered_ports (s : State) (r : Response) : (answered s r).ports = s.ports := rfl
@[simp] theorem answered_response (s : State) (r : Response) : (answered s r).response = some r := rfl
@[simp] theorem answered_buildDelay (s : State) (r : Response) : (answered s r).buildDelay = s.buildDelay := rfl
@[simp] theorem answered_resets (s : State) (r : Response) : (answered s r).resets = s.resets := rfl
@[simp] theorem answered_inputs (s : State) (r : Response) : (answered s r).inputs = s.inputs := rfl

/-! ### Writing `TABLE` -/

@[simp] theorem writeTable_params (s : State) (t : Table) : (writeTable s t).params = s.params := rfl
@[simp] theorem writeTable_table (s : State) (t : Table) : (writeTable s t).table = t := rfl
@[simp] theorem writeTable_tableReady (s : State) (t : Table) : (writeTable s t).tableReady = s.tableReady := rfl
@[simp] theorem writeTable_alpha (s : State) (t : Table) : (writeTable s t).alpha = s.alpha := rfl
@[simp] theorem writeTable_port (s : State) (t : Table) : (writeTable s t).port = s.port := rfl
@[simp] theorem writeTable_ports (s : State) (t : Table) : (writeTable s t).ports = s.ports := rfl
@[simp] theorem writeTable_response (s : State) (t : Table) : (writeTable s t).response = s.response := rfl
@[simp] theorem writeTable_buildDelay (s : State) (t : Table) : (writeTable s t).buildDelay = s.buildDelay := rfl
@[simp] theorem writeTable_resets (s : State) (t : Table) : (writeTable s t).resets = s.resets := rfl
@[simp] theorem writeTable_inputs (s : State) (t : Table) : (writeTable s t).inputs = s.inputs := rfl

/-! ### Finishing the reset build -/

@[simp] theorem finishBuild_params (s : State) : (finishBuild s).params = s.params := rfl
@[simp] theorem finishBuild_table (s : State) : (finishBuild s).table = builtTable := rfl
@[simp] theorem finishBuild_tableReady (s : State) : (finishBuild s).tableReady = true := rfl
@[simp] theorem finishBuild_alpha (s : State) : (finishBuild s).alpha = s.alpha := rfl
@[simp] theorem finishBuild_port (s : State) : (finishBuild s).port = s.port := rfl
@[simp] theorem finishBuild_ports (s : State) : (finishBuild s).ports = s.ports := rfl
@[simp] theorem finishBuild_response (s : State) : (finishBuild s).response = s.response := rfl
@[simp] theorem finishBuild_buildDelay (s : State) : (finishBuild s).buildDelay = s.buildDelay := rfl
@[simp] theorem finishBuild_resets (s : State) : (finishBuild s).resets = s.resets := rfl
@[simp] theorem finishBuild_inputs (s : State) : (finishBuild s).inputs = s.inputs := rfl

/-! ### Presenting a command -/

@[simp] theorem present_params (op : Selector) (p : OperandPorts) (s : State) : (present op p s).params = s.params := rfl
@[simp] theorem present_table (op : Selector) (p : OperandPorts) (s : State) : (present op p s).table = s.table := rfl
@[simp] theorem present_tableReady (op : Selector) (p : OperandPorts) (s : State) : (present op p s).tableReady = s.tableReady := rfl
@[simp] theorem present_alpha (op : Selector) (p : OperandPorts) (s : State) : (present op p s).alpha = s.alpha := rfl
@[simp] theorem present_port (op : Selector) (p : OperandPorts) (s : State) : (present op p s).port = some op := rfl
@[simp] theorem present_ports (op : Selector) (p : OperandPorts) (s : State) : (present op p s).ports = p := rfl
@[simp] theorem present_response (op : Selector) (p : OperandPorts) (s : State) : (present op p s).response = none := rfl
@[simp] theorem present_buildDelay (op : Selector) (p : OperandPorts) (s : State) : (present op p s).buildDelay = s.buildDelay := rfl
@[simp] theorem present_resets (op : Selector) (p : OperandPorts) (s : State) : (present op p s).resets = s.resets := rfl
@[simp] theorem present_inputs (op : Selector) (p : OperandPorts) (s : State) : (present op p s).inputs = s.inputs := rfl

/-! ### Idling -/

@[simp] theorem idle_params (s : State) : (idle s).params = s.params := rfl
@[simp] theorem idle_table (s : State) : (idle s).table = s.table := rfl
@[simp] theorem idle_tableReady (s : State) : (idle s).tableReady = s.tableReady := rfl
@[simp] theorem idle_alpha (s : State) : (idle s).alpha = s.alpha := rfl
@[simp] theorem idle_port (s : State) : (idle s).port = s.port := rfl
@[simp] theorem idle_ports (s : State) : (idle s).ports = s.ports := rfl
@[simp] theorem idle_response (s : State) : (idle s).response = none := rfl
@[simp] theorem idle_buildDelay (s : State) : (idle s).buildDelay = s.buildDelay := rfl
@[simp] theorem idle_resets (s : State) : (idle s).resets = s.resets := rfl
@[simp] theorem idle_inputs (s : State) : (idle s).inputs = s.inputs := rfl

/-! ### Asserting reset -/

@[simp] theorem assertReset_params (s : State) : (assertReset s).params = s.params := rfl
@[simp] theorem assertReset_table (s : State) : (assertReset s).table = if s.params.tableImpl = .rom then Config.romTable else unbuiltTable s.resets := rfl
@[simp] theorem assertReset_tableReady (s : State) : (assertReset s).tableReady = decide (s.params.tableImpl = .rom) := rfl
@[simp] theorem assertReset_alpha (s : State) : (assertReset s).alpha = s.alpha := rfl
@[simp] theorem assertReset_port (s : State) : (assertReset s).port = none := rfl
@[simp] theorem assertReset_ports (s : State) : (assertReset s).ports = s.ports := rfl
@[simp] theorem assertReset_response (s : State) : (assertReset s).response = none := rfl
@[simp] theorem assertReset_buildDelay (s : State) : (assertReset s).buildDelay = Config.buildDelay s.resets := rfl
@[simp] theorem assertReset_resets (s : State) : (assertReset s).resets = s.resets + 1 := rfl
@[simp] theorem assertReset_inputs (s : State) : (assertReset s).inputs = s.inputs := rfl

/-! ### The state after power-on reset -/

@[simp] theorem resetWith_params (p : Params) (α : Alphabet) (junk : Table) (n : Nat) : (State.resetWith p α junk n).params = p := rfl
@[simp] theorem resetWith_table (p : Params) (α : Alphabet) (junk : Table) (n : Nat) : (State.resetWith p α junk n).table = if p.tableImpl = .rom then Config.romTable else junk := rfl
@[simp] theorem resetWith_tableReady (p : Params) (α : Alphabet) (junk : Table) (n : Nat) : (State.resetWith p α junk n).tableReady = decide (p.tableImpl = .rom) := rfl
@[simp] theorem resetWith_alpha (p : Params) (α : Alphabet) (junk : Table) (n : Nat) : (State.resetWith p α junk n).alpha = α := rfl
@[simp] theorem resetWith_port (p : Params) (α : Alphabet) (junk : Table) (n : Nat) : (State.resetWith p α junk n).port = none := rfl
@[simp] theorem resetWith_ports (p : Params) (α : Alphabet) (junk : Table) (n : Nat) : (State.resetWith p α junk n).ports = OperandPorts.zero := rfl
@[simp] theorem resetWith_response (p : Params) (α : Alphabet) (junk : Table) (n : Nat) : (State.resetWith p α junk n).response = none := rfl
@[simp] theorem resetWith_buildDelay (p : Params) (α : Alphabet) (junk : Table) (n : Nat) : (State.resetWith p α junk n).buildDelay = n := rfl
@[simp] theorem resetWith_resets (p : Params) (α : Alphabet) (junk : Table) (n : Nat) : (State.resetWith p α junk n).resets = 0 := rfl
@[simp] theorem resetWith_inputs (p : Params) (α : Alphabet) (junk : Table) (n : Nat) : (State.resetWith p α junk n).inputs = [] := rfl

end Sys2Proof.Machine
end

