-- ==== Sys2Proof/Laws/Ops.lean ====
section
/-!
SUPPORT. For each shared operation, what it can do: its value where it is an equation, and the inversion "if it answers
next t, then one of these" for `exec` and `step`.
-/

namespace Sys2Proof.Machine

/-! ### Completing, holding, refusing -/

theorem respond_eq (s : State) (r : Response) : respond s r = .next (answered s r) := rfl

theorem answer_eq (s : State) (v : Result) : answer s v = .next (answered s (Response.ok v)) := rfl

theorem raise_eq (s : State) (e : Status) (info : ErrInfo) :
    raise s e info = .next (answered s (Response.error e info)) := rfl

theorem hold_eq (s : State) : hold s = .next (idle s) := rfl

theorem whenReady_of_ready {s : State} (h : s.tableReady = true) (k : StepOutcome) : whenReady s k = k := by
  simp [whenReady, h]

theorem whenReady_of_not_ready {s : State} (h : s.tableReady = false) (k : StepOutcome) : whenReady s k = hold s := by
  simp [whenReady, h]

theorem withinWords_of_fits {s : State} {n : Nat} (h : fits s.params.maxWords n = true) (k : StepOutcome) :
    withinWords s n k = k := by simp [withinWords, h]

theorem withinWords_of_not_fits {s : State} {n : Nat} (h : fits s.params.maxWords n = false) (k : StepOutcome) :
    withinWords s n k = .refused .tooManyWords := by simp [withinWords, h]

theorem withinText_of_fits {s : State} {n : Nat} (h : fits s.params.maxText n = true) (k : StepOutcome) :
    withinText s n k = k := by simp [withinText, h]

theorem withinText_of_not_fits {s : State} {n : Nat} (h : fits s.params.maxText n = false) (k : StepOutcome) :
    withinText s n k = .refused .sequenceTooLong := by simp [withinText, h]

@[simp] theorem fits_none (n : Nat) : fits none n = true := rfl

theorem fits_some (m n : Nat) : fits (some m) n = decide (n ≤ m) := rfl

theorem whenReady_next {s t : State} {k : StepOutcome} (h : whenReady s k = .next t) :
    (s.tableReady = true ∧ k = .next t) ∨ (s.tableReady = false ∧ t = idle s) := by
  by_cases hr : s.tableReady = true
  · exact .inl ⟨hr, by rwa [whenReady_of_ready hr] at h⟩
  · have hr := Bool.eq_false_iff.mpr hr
    rw [whenReady_of_not_ready hr, hold_eq] at h
    exact .inr ⟨hr, (Host.Outcome.next.inj h).symm⟩

theorem withinWords_next {s t : State} {n : Nat} {k : StepOutcome} (h : withinWords s n k = .next t) :
    fits s.params.maxWords n = true ∧ k = .next t := by
  cases hf : fits s.params.maxWords n
  · simp [withinWords_of_not_fits hf] at h
  · exact ⟨rfl, by rwa [withinWords_of_fits hf] at h⟩

theorem withinText_next {s t : State} {n : Nat} {k : StepOutcome} (h : withinText s n k = .next t) :
    fits s.params.maxText n = true ∧ k = .next t := by
  cases hf : fits s.params.maxText n
  · simp [withinText_of_not_fits hf] at h
  · exact ⟨rfl, by rwa [withinText_of_fits hf] at h⟩

theorem mapNext_eq_next {f : State → State} {o : StepOutcome} {t : State} (h : mapNext f o = .next t) :
    ∃ u, o = .next u ∧ t = f u := by
  cases o with
  | next u => exact ⟨u, rfl, (Host.Outcome.next.inj h).symm⟩
  | fault r => exact nomatch r
  | refused r => simp [mapNext] at h

@[simp] theorem mapNext_next (f : State → State) (t : State) : mapNext f (.next t) = .next (f t) := rfl

/-! ### The build agent -/

theorem tickBuild_of_ready {s : State} (h : s.tableReady = true) : tickBuild s = s := by simp [tickBuild, h]

theorem tickBuild_of_zero {s : State} (h : s.tableReady = false) (hd : s.buildDelay = 0) :
    tickBuild s = finishBuild s := by simp [tickBuild, h, hd]

theorem tickBuild_of_succ {s : State} {n : Nat} (h : s.tableReady = false) (hd : s.buildDelay = n + 1) :
    tickBuild s = { s with buildDelay := n } := by simp [tickBuild, h, hd]

/-- What the build agent can do in a step. -/
theorem tickBuild_cases (s : State) :
    (s.tableReady = true ∧ tickBuild s = s) ∨
    (s.tableReady = false ∧ s.buildDelay = 0 ∧ tickBuild s = finishBuild s) ∨
    (∃ n, s.tableReady = false ∧ s.buildDelay = n + 1 ∧ tickBuild s = { s with buildDelay := n }) := by
  by_cases hr : s.tableReady = true
  · exact .inl ⟨hr, tickBuild_of_ready hr⟩
  · have hr := Bool.eq_false_iff.mpr hr
    obtain hd | ⟨n, hd⟩ : s.buildDelay = 0 ∨ ∃ n, s.buildDelay = n + 1 := by cases s.buildDelay <;> simp
    · exact .inr (.inl ⟨hr, hd, tickBuild_of_zero hr hd⟩)
    · exact .inr (.inr ⟨n, hr, hd, tickBuild_of_succ hr hd⟩)

/-! ### The lookup spaces -/

/-- `REV[c]`: a valid entry names a digit whose symbol is `c`, and an invalid one says that no symbol is `c`. -/
theorem readRev_spec (α : Alphabet) (c : Code) :
    ((readRev α c).valid = true ∧ readAlpha α (readRev α c).digit = c) ∨
    (readRev α c = { valid := false, digit := 0 } ∧ ∀ d, readAlpha α d ≠ c) := by
  unfold readRev
  split
  next d hf => exact .inl ⟨rfl, by simpa [readAlpha] using List.find?_some hf⟩
  next hf => exact .inr ⟨rfl, fun d => by simpa [readAlpha] using List.find?_eq_none.mp hf d.toFin (List.mem_finRange _)⟩

/-! ### What a command and a step can do -/

/-- A meaning that answers a next state either waits, or completes and writes no more than its response, or is
`TABLE_BUILD` in a ready state. -/
theorem exec_cases {i : Instr} {s t : State} (h : exec i s = .next t) :
    (needsTable i = true ∧ s.tableReady = false ∧ t = idle s) ∨
    (∃ r, t = answered s r) ∨
    (i = .tableBuild ∧ s.tableReady = true ∧
      t = answered (writeTable s builtTable) (Response.ok (.digits builtTable.toList))) := by
  cases i <;> simp only [exec] at h
  case crc5Bitwise => exact .inr (.inl ⟨_, (Host.Outcome.next.inj h).symm⟩)
  case symbolOf => exact .inr (.inl ⟨_, (Host.Outcome.next.inj h).symm⟩)
  case reserved0000 => exact .inr (.inl ⟨_, (Host.Outcome.next.inj h).symm⟩)
  case reserved1110 => exact .inr (.inl ⟨_, (Host.Outcome.next.inj h).symm⟩)
  case reserved1111 => exact .inr (.inl ⟨_, (Host.Outcome.next.inj h).symm⟩)
  case digitOf =>
    unfold execDigitOf at h
    split at h <;> exact .inr (.inl ⟨_, (Host.Outcome.next.inj h).symm⟩)
  case splitWords =>
    exact .inr (.inl ⟨_, (Host.Outcome.next.inj (withinWords_next h).2).symm⟩)
  case joinWords =>
    exact .inr (.inl ⟨_, (Host.Outcome.next.inj (withinWords_next h).2).symm⟩)
  case renderDecoded =>
    exact .inr (.inl ⟨_, (Host.Outcome.next.inj (withinText_next h).2).symm⟩)
  all_goals
    rcases whenReady_next h with ⟨hr, hk⟩ | ⟨hr, ht⟩
    case inr => exact .inl ⟨rfl, hr, ht⟩
  case tableBuild => exact .inr (.inr ⟨rfl, hr, (Host.Outcome.next.inj hk).symm⟩)
  case tableRead => exact .inr (.inl ⟨_, (Host.Outcome.next.inj hk).symm⟩)
  case encodeWord => exact .inr (.inl ⟨_, (Host.Outcome.next.inj hk).symm⟩)
  case crc5Fold => exact .inr (.inl ⟨_, (Host.Outcome.next.inj (withinText_next hk).2).symm⟩)
  case decodeKey => exact .inr (.inl ⟨_, (Host.Outcome.next.inj (withinText_next hk).2).symm⟩)
  case encodeKey => exact .inr (.inl ⟨_, (Host.Outcome.next.inj (withinWords_next hk).2).symm⟩)
  case decodeGroup =>
    have hk := (withinText_next hk).2
    split at hk <;> exact .inr (.inl ⟨_, (Host.Outcome.next.inj hk).symm⟩)

/-- What a step can do: a reset, a presented command, a command run, or an idle step; the build agent beside the last
three. -/
theorem step_cases {s t : State} (h : step s = .next t) :
    (∃ rest, s.inputs = .reset :: rest ∧ t = assertReset { s with inputs := rest }) ∨
    (∃ op p rest, s.inputs = .command op p :: rest ∧ s.port = none ∧
      t = tickBuild (present op p { s with inputs := rest })) ∨
    (∃ op rest u, s.port = some op ∧ (∀ r, s.inputs ≠ .reset :: r) ∧
      exec (decodeSelector op) { s with inputs := rest } = .next u ∧ t = tickBuild u) ∨
    (∃ rest, s.port = none ∧ (∀ r, s.inputs ≠ .reset :: r) ∧ t = tickBuild (idle { s with inputs := rest })) := by
  have block : ∀ rest, (∀ r, s.inputs ≠ .reset :: r) → blockStep { s with inputs := rest } = .next t →
      (∃ op rest u, s.port = some op ∧ (∀ r, s.inputs ≠ .reset :: r) ∧
        exec (decodeSelector op) { s with inputs := rest } = .next u ∧ t = tickBuild u) ∨
      (∃ rest, s.port = none ∧ (∀ r, s.inputs ≠ .reset :: r) ∧ t = tickBuild (idle { s with inputs := rest })) := by
    intro rest hn hb
    obtain ⟨u, hu, rfl⟩ := mapNext_eq_next hb
    unfold portStep at hu
    cases hp : s.port with
    | some op => exact .inl ⟨op, rest, u, rfl, hn, by simpa [hp] using hu, rfl⟩
    | none => exact .inr ⟨rest, rfl, hn, by simp only [hp] at hu; rw [← Host.Outcome.next.inj hu]⟩
  unfold step hostStep at h
  split at h
  case h_1 hi => exact .inr (.inr (block s.inputs (by simp [hi]) h))
  case h_2 rest hi => exact .inr (.inr (block rest (by simp [hi]) h))
  case h_3 rest hi => exact .inl ⟨rest, hi, (Host.Outcome.next.inj h).symm⟩
  case h_4 op p rest hi =>
    split at h
    · exact .inr (.inr (block s.inputs (by simp [hi]) h))
    · rename_i hp
      exact .inr (.inl ⟨op, p, rest, hi, hp, (Host.Outcome.next.inj h).symm⟩)

/-! ### Runs of several steps -/

theorem core_run_zero (s : State) : core.run 0 s = .next s := rfl

theorem core_run_succ {s t : State} (k : Nat) (h : step s = .next t) : core.run (k + 1) s = core.run k t := by
  have hc : core.step s = .next t := h
  simp only [Host.Core.run, hc]

end Sys2Proof.Machine
end

