-- ==== Sys2Proof/Laws/Codec.lean ====
section
/-!
SUPPORT. One lemma for each pure function of the codec that later proofs cite instead of unfolding it: the table, the
fold, the reverse lookup, the splitting and joining loops, the key text.
-/

namespace Sys2Proof.Machine

/-! ### The table and the fold -/

/-- What the reset build and `TABLE_BUILD` write is the table the spec prints. -/
theorem builtTable_eq : builtTable = Config.romTable := by decide +kernel

theorem fold_nil (t : Table) : fold t [] = 0 := rfl

theorem fold_append (t : Table) (ds : List Digit) (d : Digit) :
    fold t (ds ++ [d]) = readTable t (d ^^^ fold t ds) := by
  simp [fold, foldStep]

/-! ### The alphabet -/

/-- Folding twice is folding once. -/
theorem casefold_casefold (c : Code) : casefold (casefold c) = casefold c := by
  revert c
  decide +kernel

/-- The digit of a character depends on its folded form only. -/
theorem digitOf_casefold (α : Alphabet) (c : Code) : digitOf α (casefold c) = digitOf α c := by
  simp [digitOf, casefold_casefold]

/-- What the reverse lookup can answer. -/
theorem digitOf_spec (α : Alphabet) (c : Code) :
    (∃ d, digitOf α c = some d ∧ readAlpha α d = casefold c) ∨
    (digitOf α c = none ∧ ∀ d, readAlpha α d ≠ casefold c) := by
  rcases readRev_spec α (casefold c) with ⟨hv, hd⟩ | ⟨he, hn⟩
  · exact .inl ⟨_, by simp [digitOf, hv], hd⟩
  · exact .inr ⟨by simp [digitOf, he], hn⟩

/-! ### Words -/

/-- The words already split off stay behind those still to come. -/
theorem splitLoop_append (turns n : Nat) (ws : List Word) : splitLoop turns n ws = splitLoop turns n [] ++ ws := by
  induction turns generalizing n ws with
  | zero => simp [splitLoop]
  | succ turns ih =>
    unfold splitLoop
    split
    · simp
    · rw [ih _ (_ :: ws), ih _ [_]]
      simp

theorem splitWords_length_pos (n : Nat) : 0 < (splitWords n).length := by
  unfold splitWords splitLoop
  split
  · simp
  · rw [splitLoop_append]
    simp

theorem joinWords_append (ws : List Word) (w : Word) : joinWords (ws ++ [w]) = (joinWords ws <<< 20) ||| w.toNat := by
  simp [joinWords]

/-! ### Keys -/

theorem splitFields_ne_nil (cur t : Text) : splitFields cur t ≠ [] := by
  induction t generalizing cur with
  | nil => simp [splitFields]
  | cons c cs ih =>
    unfold splitFields
    split
    · simp
    · exact ih _

theorem renderOne_length (r : GroupResult) : (renderOne r).length = 5 := by
  cases r <;> rfl

end Sys2Proof.Machine
end

