-- ==== Sys2Proof/Laws/PerInstr.lean ====
section
/-!
SUPPORT. The family `Encoding`: what holds of every instruction as syntax, one lemma for each constructor.
-/

namespace Sys2Proof.Laws.Encoding

/-- An instruction is well formed, its selector decodes to it, and the opcode table's word for it decodes to it. -/
def Statement (i : Instr) : Prop :=
  i.wellFormed = true ∧ decodeSelector (encode i) = i ∧ decodeTableWord 8 (encode i).toNat = some i

theorem reserved0000 : Statement .reserved0000 := ⟨by decide, rfl, rfl⟩
theorem crc5Bitwise : Statement .crc5Bitwise := ⟨by decide, rfl, rfl⟩
theorem tableBuild : Statement .tableBuild := ⟨by decide, rfl, rfl⟩
theorem tableRead : Statement .tableRead := ⟨by decide, rfl, rfl⟩
theorem crc5Fold : Statement .crc5Fold := ⟨by decide, rfl, rfl⟩
theorem symbolOf : Statement .symbolOf := ⟨by decide, rfl, rfl⟩
theorem digitOf : Statement .digitOf := ⟨by decide, rfl, rfl⟩
theorem splitWords : Statement .splitWords := ⟨by decide, rfl, rfl⟩
theorem joinWords : Statement .joinWords := ⟨by decide, rfl, rfl⟩
theorem encodeWord : Statement .encodeWord := ⟨by decide, rfl, rfl⟩
theorem decodeGroup : Statement .decodeGroup := ⟨by decide, rfl, rfl⟩
theorem encodeKey : Statement .encodeKey := ⟨by decide, rfl, rfl⟩
theorem decodeKey : Statement .decodeKey := ⟨by decide, rfl, rfl⟩
theorem renderDecoded : Statement .renderDecoded := ⟨by decide, rfl, rfl⟩
theorem reserved1110 : Statement .reserved1110 := ⟨by decide, rfl, rfl⟩
theorem reserved1111 : Statement .reserved1111 := ⟨by decide, rfl, rfl⟩

end Sys2Proof.Laws.Encoding
end

