-- ==== Sys2Proof/Tests/Slice0.lean ====
section
/-!
SUPPORT. Tests of one step each, with results taken from spec/95_test_vectors.md (its section is named at each group) or
from the rule named; the smoke test of the well-formedness checks; and a witness for the hypotheses of every statement.
-/

set_option Elab.async false

namespace Sys2Proof.Machine

/-! ### Sample states -/

/-- A block whose table is ready, with the given operand ports. -/
def readyWith (p : OperandPorts) : State :=
  { State.resetWith { Params.default with tableImpl := .rom } Config.defaultAlphabet (Vector.replicate 32 0) 0 with
    ports := p }

/-- The same with a capacity of one word and one element. -/
def smallWith (p : OperandPorts) : State :=
  { readyWith p with params := { tableImpl := .rom, maxWords := some 1, maxText := some 1 } }

/-- A block whose table is not ready, with the given operand ports. -/
def buildingWith (p : OperandPorts) : State := { State.reset with ports := p }

/-- Ports that carry a text. -/
def textPort (s : String) : OperandPorts := { OperandPorts.zero with text := codesOf s }

/-- The step answers a next state. -/
def isNext : StepOutcome → Bool
  | .next _    => true
  | .fault _   => false
  | .refused _ => false

/-- The next state, where there is one. -/
def nextState : StepOutcome → State
  | .next t    => t
  | .fault _   => State.reset
  | .refused _ => State.reset

theorem eq_next {o : StepOutcome} (h : isNext o = true) : o = .next (nextState o) := by
  cases o with
  | next t => rfl
  | fault r => exact nomatch r
  | refused r => cases h

/-- The response to `i` on a ready block. -/
def reply (i : Instr) (p : OperandPorts) : Option Response := responseOf (exec i (readyWith p))

/-- The response of `INVALID_LENGTH`, `INVALID_SYMBOL` or `CHECKSUM_MISMATCH` for a group. -/
def groupFailure (e : GroupError) : Option Response := some (Response.error e.kind.status (.ofGroup e))

/-! ### Well-formedness: one ill-formed term for each check (41_alphabet.md R70; 30_encoding.md R47, R48) -/

theorem test_alphabet_default_ok : alphabetOk Config.defaultAlphabet = true := by decide +kernel

theorem test_alphabet_repeated_refused :
    alphabetDistinct (Config.defaultAlphabet.set 1 0x32) = false ∧
      alphabetOk (Config.defaultAlphabet.set 1 0x32) = false := by decide +kernel

theorem test_alphabet_unprintable_refused :
    alphabetPrintable (Config.defaultAlphabet.set 1 0x20) = false ∧
      alphabetOk (Config.defaultAlphabet.set 1 0x20) = false := by decide +kernel

theorem test_alphabet_ambiguous_refused :
    alphabetUnambiguous (Config.defaultAlphabet.set 1 0x4F) = false ∧
      alphabetOk (Config.defaultAlphabet.set 1 0x4F) = false := by decide +kernel

theorem test_alphabet_first_symbol_refused :
    alphabetStartsWithTwo (Config.defaultAlphabet.set 0 0x23) = false ∧
      alphabetOk (Config.defaultAlphabet.set 0 0x23) = false := by decide +kernel

theorem test_alphabet_lowercase_refused :
    alphabetNoLowercase (Config.defaultAlphabet.set 1 0x61) = false ∧
      alphabetOk (Config.defaultAlphabet.set 1 0x61) = false := by decide +kernel

theorem test_alphabet_separator_refused :
    alphabetNoSeparator (Config.defaultAlphabet.set 1 0x2D) = false ∧
      alphabetOk (Config.defaultAlphabet.set 1 0x2D) = false := by decide +kernel

theorem test_wide_word_refused : commandWordFits 0b10001 = false ∧ decodeWord 0b10001 = .error .selectorTooWide :=
  ⟨rfl, rfl⟩

/-! ### Decoding: the words of 30_encoding.md R49, written out bit by bit -/

theorem test_decode_reserved0000 : decodeWord 0b0000 = .ok .reserved0000 := rfl
theorem test_decode_crc5Bitwise : decodeWord 0b0001 = .ok .crc5Bitwise := rfl
theorem test_decode_tableBuild : decodeWord 0b0010 = .ok .tableBuild := rfl
theorem test_decode_tableRead : decodeWord 0b0011 = .ok .tableRead := rfl
theorem test_decode_crc5Fold : decodeWord 0b0100 = .ok .crc5Fold := rfl
theorem test_decode_symbolOf : decodeWord 0b0101 = .ok .symbolOf := rfl
theorem test_decode_digitOf : decodeWord 0b0110 = .ok .digitOf := rfl
theorem test_decode_splitWords : decodeWord 0b0111 = .ok .splitWords := rfl
theorem test_decode_joinWords : decodeWord 0b1000 = .ok .joinWords := rfl
theorem test_decode_encodeWord : decodeWord 0b1001 = .ok .encodeWord := rfl
theorem test_decode_decodeGroup : decodeWord 0b1010 = .ok .decodeGroup := rfl
theorem test_decode_encodeKey : decodeWord 0b1011 = .ok .encodeKey := rfl
theorem test_decode_decodeKey : decodeWord 0b1100 = .ok .decodeKey := rfl
theorem test_decode_renderDecoded : decodeWord 0b1101 = .ok .renderDecoded := rfl
theorem test_decode_reserved1110 : decodeWord 0b1110 = .ok .reserved1110 := rfl
theorem test_decode_reserved1111 : decodeWord 0b1111 = .ok .reserved1111 := rfl
theorem test_decode_no_bytes : decodeBytes [] = .error .noCommand := rfl
theorem test_decode_bytes_rest : decodeBytes [0x0A, 0x03] = .ok (.decodeGroup, [0x03]) := rfl

/-- Every instruction of the opcode table, placed with `withFetchWord` after reset, runs in the very next step. -/
theorem test_first_command_after_reset : Instr.all.all (fun i =>
    decodeTableWord 8 (encode i).toNat == some i &&
    isNext (step (State.reset.withFetchWord 8 (encode i).toNat)) &&
    (responseOf (step (State.reset.withFetchWord 8 (encode i).toNat))).isSome) = true := by decide +kernel

/-! ### The CRC-5 engine (95_test_vectors.md section 2.1) -/

theorem test_crc5Bitwise_traced :
    reply .crc5Bitwise { OperandPorts.zero with u20 := 0x12345 } = some (Response.ok (.digit 12)) := by decide +kernel

theorem test_crc5Bitwise_all_ones :
    reply .crc5Bitwise { OperandPorts.zero with u20 := 0xFFFFF } = some (Response.ok (.digit 23)) := by decide +kernel

theorem test_tableBuild_printed : reply .tableBuild OperandPorts.zero = some (Response.ok (.digits
    [0, 5, 10, 15, 20, 17, 30, 27, 13, 8, 7, 2, 25, 28, 19, 22, 26, 31, 16, 21, 14, 11, 4, 1, 23, 18, 29, 24, 3, 6, 9,
     12])) := by decide +kernel

theorem test_tableRead_8 :
    reply .tableRead { OperandPorts.zero with d5 := 8 } = some (Response.ok (.digit 13)) := by decide +kernel

theorem test_tableRead_held :
    responseOf (exec .tableRead (buildingWith { OperandPorts.zero with d5 := 8 })) = none := by decide +kernel

theorem test_crc5Fold_with_check :
    reply .crc5Fold { OperandPorts.zero with digits := [31, 31, 31, 31] } = some (Response.ok (.digit 23)) := by
  decide +kernel

theorem test_crc5Fold_eight_digits :
    reply .crc5Fold { OperandPorts.zero with digits := [1, 2, 3, 4, 5, 6, 7, 8] } = some (Response.ok (.digit 3)) := by
  decide +kernel

/-! ### The alphabet (95_test_vectors.md section 2.2) -/

theorem test_symbolOf_20 :
    reply .symbolOf { OperandPorts.zero with d5 := 20 } = some (Response.ok (.code 0x4E)) := by decide +kernel

theorem test_symbolOf_31 :
    reply .symbolOf { OperandPorts.zero with d5 := 31 } = some (Response.ok (.code 0x5A)) := by decide +kernel

theorem test_digitOf_lowercase_l :
    reply .digitOf { OperandPorts.zero with char := 0x6C } = some (Response.ok (.digit 18)) := by decide +kernel

theorem test_digitOf_lowercase_o : reply .digitOf { OperandPorts.zero with char := 0x6F } =
    some (Response.error .invalidSymbol (.ofChar 0 0x6F)) := by decide +kernel

/-! ### Words (95_test_vectors.md section 2.3) -/

theorem test_splitWords_leading_short : reply .splitWords { OperandPorts.zero with nat := 0xDEADBEEF } =
    some (Response.ok (.words [0x00DEA, 0xDBEEF])) := by decide +kernel

theorem test_splitWords_2_to_100 : reply .splitWords { OperandPorts.zero with nat := 2 ^ 100 } =
    some (Response.ok (.words [1, 0, 0, 0, 0, 0])) := by decide +kernel

theorem test_joinWords_leading_zero : reply .joinWords { OperandPorts.zero with words := [0x00000, 0x00005] } =
    some (Response.ok (.nat 5)) := by decide +kernel

theorem test_joinWords_three :
    reply .joinWords { OperandPorts.zero with words := [0x12345, 0x6789A, 0xBCDEF] } =
      some (Response.ok (.nat 0x123456789ABCDEF)) := by decide +kernel

/-! ### Groups (95_test_vectors.md sections 2.4, 2.5) -/

theorem test_encodeWord_12345 : reply .encodeWord { OperandPorts.zero with u20 := 0x12345 } =
    some (Response.ok (.text (codesOf "4AU7E"))) := by decide +kernel

theorem test_encodeWord_DEADB : reply .encodeWord { OperandPorts.zero with u20 := 0xDEADB } =
    some (Response.ok (.text (codesOf "VUQVR"))) := by decide +kernel

theorem test_decodeGroup_mixed_case :
    reply .decodeGroup (textPort "4AU7e") = some (Response.ok (.word 0x12345)) := by decide +kernel

theorem test_decodeGroup_errors :
    reply .decodeGroup (textPort "0000") = groupFailure (.invalidLength (codesOf "0000") 4) ∧
    reply .decodeGroup (textPort "2O2I2") = groupFailure (.invalidSymbol (codesOf "2O2I2") 1 0x4F) ∧
    reply .decodeGroup (textPort "A4U7E") = groupFailure (.checksumMismatch (codesOf "A4U7E") 12 3) := by
  decide +kernel

/-! ### Keys (95_test_vectors.md section 2.6) -/

theorem test_encodeKey_three_words : reply .encodeKey { OperandPorts.zero with nat := 0x123456789ABCDEF } =
    some (Response.ok (.text (codesOf "4AU7E-EY6U6-RMHHH"))) := by decide +kernel

theorem test_encodeKey_DEADBEEF : reply .encodeKey { OperandPorts.zero with nat := 0xDEADBEEF } =
    some (Response.ok (.text (codesOf "25HC9-VHRH4"))) := by decide +kernel

theorem test_decodeKey_partial_failure : reply .decodeKey (textPort "4AU7E-2222-40U7E-ZZZZR") =
    some (Response.ok (.results [.accepted 0x12345, .rejected (.invalidLength (codesOf "2222") 4),
      .rejected (.invalidSymbol (codesOf "40U7E") 1 0x30), .accepted 0xFFFFF])) := by decide +kernel

theorem test_decodeKey_empty_last_field : reply .decodeKey (textPort "22222-") =
    some (Response.ok (.results [.accepted 0, .rejected (.invalidLength [] 0)])) := by decide +kernel

theorem test_renderDecoded_mixed : reply .renderDecoded { OperandPorts.zero with results :=
      [.accepted 0x12345, .rejected (.invalidLength [] 0), .rejected (.invalidSymbol [] 1 0x30), .accepted 0xFFFFF] } =
    some (Response.ok (.text (codesOf "12345??????????fffff"))) := by decide +kernel

theorem test_renderDecoded_leading_zeros : reply .renderDecoded { OperandPorts.zero with results := [.accepted 0x00ABC] } =
    some (Response.ok (.text (codesOf "00abc"))) := by decide +kernel

/-! ### Reserved selectors (60_exceptions.md R101; 95_test_vectors.md P4 and its variant) -/

theorem test_reserved_never_held :
    responseOf (exec .reserved0000 State.reset) = some (Response.error .illegalOp (.ofOp 0b0000)) ∧
    responseOf (exec .reserved1110 State.reset) = some (Response.error .illegalOp (.ofOp 0b1110)) ∧
    responseOf (exec .reserved1111 State.reset) = some (Response.error .illegalOp (.ofOp 0b1111)) := by decide +kernel

/-! ### The assembly syntax (30_encoding.md R57; the lines are those of 95_test_vectors.md P1, P2, P3, P4) -/

theorem test_readLine_numbers :
    readLine (codesOf "CRC5_BITWISE 0x12345 ; traced") = some (.crc5Bitwise 0x12345) ∧
    readLine (codesOf "TABLE_READ 8") = some (.tableRead 8) ∧
    readLine (codesOf "TABLE_BUILD") = some .tableBuild ∧
    readLine (codesOf "SPLIT_WORDS 0x123456789ABCDEF") = some (.splitWords 0x123456789ABCDEF) ∧
    readLine (codesOf "TABLE_READ 32") = none := by decide +kernel

theorem test_readLine_sequences :
    readLine (codesOf "CRC5_FOLD [2, 8, 26, 5]") = some (.crc5Fold [2, 8, 26, 5]) ∧
    readLine (codesOf "JOIN_WORDS [0x12345, 0x6789A, 0xBCDEF]") = some (.joinWords [0x12345, 0x6789A, 0xBCDEF]) ∧
    readLine (codesOf "RENDER_DECODED [ok(0x12345), err(INVALID_LENGTH)]") =
      some (.renderDecoded [.ok 0x12345, .err .invalidLength]) ∧
    readLine (codesOf "RENDER_DECODED []") = some (.renderDecoded []) := by decide +kernel

theorem test_readLine_texts :
    readLine (codesOf "DIGIT_OF 'l'") = some (.digitOf 0x6C) ∧
    readLine (codesOf "DIGIT_OF 0xC1") = some (.digitOf 0xC1) ∧
    readLine [0x44, 0x45, 0x43, 0x4F, 0x44, 0x45, 0x5F, 0x4B, 0x45, 0x59, 0x20, 0x22, 0x34, 0x2D, 0x3B, 0x22] =
      some (.decodeKey [0x34, 0x2D, 0x3B]) ∧
    readLine (codesOf "; only a comment") = none := by decide +kernel

/-! ### Reset and the build (95_test_vectors.md P1) -/

theorem test_build_completes : (nextState (step State.reset)).tableReady = true ∧
    (nextState (step State.reset)).table = Config.romTable := by decide +kernel

theorem test_reset_abandons_held_command :
    (nextState (step { State.reset with port := some 0b0011, inputs := [.reset] })).port = none ∧
    responseOf (step { State.reset with port := some 0b0011, inputs := [.reset] }) = none := by decide +kernel

/-! ### Witnesses: the hypotheses of each statement can be met, clause by clause -/

theorem readyWith_inv (p : OperandPorts) : (readyWith p).Inv :=
  { tableConstant := fun _ => rfl, romReady := fun _ => rfl, alphabet := test_alphabet_default_ok,
    oneResponse := nofun }

theorem reset_inv : State.reset.Inv :=
  { tableConstant := nofun, romReady := nofun, alphabet := test_alphabet_default_ok,
    oneResponse := nofun }

theorem witness_StepRunsDecodedCommand :
    let s := { readyWith (textPort "22222") with port := some 0b1010 }
    s.port = some 0b1010 ∧ decodeSelector 0b1010 = .decodeGroup ∧ Instr.decodeGroup.wellFormed = true ∧
    s.inputs = [] ∧ s.tableReady = true ∧
    { s with inputs := [.quiet] }.inputs = .quiet :: [] ∧
    { s with inputs := [.command 1 OperandPorts.zero] }.inputs = .command 1 OperandPorts.zero :: [] :=
  ⟨rfl, rfl, by decide, rfl, rfl, rfl, rfl⟩

theorem witness_CommandPortTakesOneCommandAtATime :
    let s := { readyWith OperandPorts.zero with inputs := [.command 0b0001 OperandPorts.zero] }
    s.inputs = .command 0b0001 OperandPorts.zero :: [] ∧ s.port = none ∧
    { s with port := some 0b0101 }.port = some 0b0101 ∧
    ∃ t, step { { s with port := some 0b0101 } with inputs := [] } = .next t :=
  ⟨rfl, rfl, rfl, _, eq_next (by decide +kernel)⟩

theorem witness_IdleStepChangesNoState :
    let s := readyWith OperandPorts.zero
    s.port = none ∧ s.inputs = [] ∧ s.tableReady = true := ⟨rfl, rfl, rfl⟩

theorem witness_PlacedCommandRunsInNextStep : Params.default.maxWords = none ∧ Params.default.maxText = none :=
  ⟨rfl, rfl⟩

theorem witness_ResetEventLeavesResetValues :
    { State.reset with inputs := [.reset] }.inputs = .reset :: [] ∧
    { State.reset with inputs := [.reset] }.params.tableImpl = .builtAtReset ∧
    { readyWith OperandPorts.zero with inputs := [.reset] }.inputs = .reset :: [] ∧
    { readyWith OperandPorts.zero with inputs := [.reset] }.params.tableImpl = .rom := ⟨rfl, rfl, rfl, rfl⟩

theorem witness_PowerOnResetValues :
    Params.default.tableImpl = .builtAtReset ∧ { Params.default with tableImpl := .rom }.tableImpl = .rom := ⟨rfl, rfl⟩

theorem witness_InvariantHoldsAtReset : alphabetOk Config.defaultAlphabet = true := test_alphabet_default_ok

theorem witness_EveryStepKeepsInvariant :
    let s := { readyWith (textPort "4AU7E") with port := some 0b1010 }
    s.Inv ∧ step s = .next (nextState (step s)) ∧ (nextState (step s)).response = some (Response.ok (.word 0x12345)) :=
  ⟨{ readyWith_inv (textPort "4AU7E") with oneResponse := nofun }, eq_next (by decide +kernel),
    by decide +kernel⟩

theorem witness_ResetBuildWritesTableAndSetsReady :
    let s := { State.reset with port := some 0b0001 }
    s.tableReady = false ∧ s.buildDelay = 0 ∧ (∀ rest, s.inputs ≠ .reset :: rest) ∧
      step s = .next (nextState (step s)) := ⟨rfl, rfl, nofun, eq_next (by decide +kernel)⟩

theorem witness_TableReadyStaysUntilReset :
    let s := { readyWith OperandPorts.zero with port := some 0b0010 }
    s.tableReady = true ∧ (∀ rest, s.inputs ≠ .reset :: rest) ∧ step s = .next (nextState (step s)) ∧
      exec .tableBuild s = .next (nextState (exec .tableBuild s)) :=
  ⟨rfl, nofun, eq_next (by decide +kernel), eq_next (by decide +kernel)⟩

theorem witness_ReadyTableHoldsCrcAndNeverChanges :
    let s := { readyWith OperandPorts.zero with port := some 0b0010 }
    s.Inv ∧ s.tableReady = true ∧ exec .tableBuild s = .next (nextState (exec .tableBuild s)) ∧
      (∀ rest, s.inputs ≠ .reset :: rest) ∧ step s = .next (nextState (step s)) :=
  ⟨{ readyWith_inv OperandPorts.zero with oneResponse := nofun }, rfl, eq_next (by decide +kernel), nofun,
    eq_next (by decide +kernel)⟩

theorem witness_TableOperationsAreHeldUntilReady :
    needsTable .decodeKey = true ∧ State.reset.tableReady = false ∧
    (let s := { State.reset with port := some 0b1100 }
     s.port = some 0b1100 ∧ needsTable (decodeSelector 0b1100) = true ∧ s.tableReady = false ∧
       (∀ rest, s.inputs ≠ .reset :: rest) ∧ step s = .next (nextState (step s))) ∧
    (let s := { readyWith (textPort "22222") with port := some 0b1100 }
     s.port = some 0b1100 ∧ s.tableReady = true ∧ s.inputs = [] ∧ withinCapacity (decodeSelector 0b1100) s = true) ∧
    (readyWith OperandPorts.zero).Inv ∧ (readyWith OperandPorts.zero).params.tableImpl = .rom ∧
    withinCapacity .decodeKey (readyWith OperandPorts.zero) = true :=
  ⟨rfl, rfl, ⟨rfl, rfl, rfl, nofun, eq_next (by decide +kernel)⟩, ⟨rfl, rfl, rfl, rfl⟩, readyWith_inv _, rfl, rfl⟩

theorem witness_HeldCommandIsAcceptedWhenBuildEnds :
    let s := { State.reset with port := some 0b0011, buildDelay := 2 }
    s.tableReady = false ∧ s.port = some 0b0011 ∧ needsTable (decodeSelector 0b0011) = true ∧ s.inputs = [] ∧
      1 ≤ s.buildDelay := ⟨rfl, rfl, rfl, rfl, by decide⟩

theorem witness_CommandsChangeOnlyPortAndResponse :
    (readyWith OperandPorts.zero).Inv ∧
    exec .encodeKey (readyWith OperandPorts.zero) = .next (nextState (exec .encodeKey (readyWith OperandPorts.zero))) ∧
    State.reset.Inv ∧ exec .encodeKey State.reset = .next (idle State.reset) :=
  ⟨readyWith_inv _, eq_next (by decide +kernel), reset_inv, rfl⟩

theorem witness_UnlistedPortsHaveNoEffect :
    (∀ n ∈ portsRead .tableRead, samePort { textPort "2" with d5 := 7 } { OperandPorts.zero with d5 := 7 } n = true) ∧
    samePort (textPort "2") OperandPorts.zero .text = false := ⟨by decide, by decide +kernel⟩

theorem witness_OtherOperationsIgnoreTheTable : needsTable .crc5Bitwise = false := rfl

theorem witness_ResponsesDoNotDependOnEarlierCommands :
    let s := readyWith (textPort "20222")
    s.Inv ∧ s.tableReady = true ∧ exec .decodeGroup s = .next (nextState (exec .decodeGroup s)) :=
  ⟨readyWith_inv _, rfl, eq_next (by decide +kernel)⟩

theorem witness_ResponsesHaveTheirOperationsShape :
    (let s := readyWith (textPort "22222")
     exec .decodeGroup s = .next (nextState (exec .decodeGroup s)) ∧
       (nextState (exec .decodeGroup s)).response = some (Response.ok (.word 0))) ∧
    (let s := readyWith (textPort "2222")
     exec .decodeGroup s = .next (nextState (exec .decodeGroup s)) ∧
       (nextState (exec .decodeGroup s)).response = groupFailure (.invalidLength (codesOf "2222") 4)) :=
  ⟨⟨eq_next (by decide +kernel), by decide +kernel⟩, eq_next (by decide +kernel), by decide +kernel⟩

theorem witness_StatusesComeFromTheirOperations :
    exec .digitOf (readyWith OperandPorts.zero) = .next (nextState (exec .digitOf (readyWith OperandPorts.zero))) ∧
    (nextState (exec .digitOf (readyWith OperandPorts.zero))).response =
      some (Response.error .invalidSymbol (.ofChar 0 0)) ∧
    (nextState (exec .decodeGroup (readyWith (textPort "22223")))).response =
      groupFailure (.checksumMismatch (codesOf "22223") 1 0) ∧
    (nextState (exec .reserved1111 State.reset)).response = some (Response.error .illegalOp (.ofOp 0b1111)) :=
  ⟨eq_next (by decide +kernel), by decide +kernel, by decide +kernel, by decide +kernel⟩

theorem witness_ErrorsWriteNoStateAndLeaveBlockReady :
    let s := readyWith (textPort "22223")
    exec .decodeGroup s = .next (nextState (exec .decodeGroup s)) ∧
      ∃ r, (nextState (exec .decodeGroup s)).response = some r ∧ r.status ≠ .ok :=
  ⟨eq_next (by decide +kernel), Response.error .checksumMismatch (.ofGroup (.checksumMismatch (codesOf "22223") 1 0)),
    by decide +kernel, by decide⟩

theorem witness_firstUnresolved :
    firstUnresolved Config.defaultAlphabet (codesOf "2O2I2") 1 0x4F ∧ (codesOf "2O2I2").length = 5 := by
  refine ⟨⟨by decide +kernel, by decide +kernel, fun j hj b hb => ?_⟩, by decide +kernel⟩
  obtain rfl : j = 0 := by omega
  obtain rfl : b = 0x32 := by
    have : (codesOf "2O2I2")[0]? = some 0x32 := by decide +kernel
    rw [this] at hb
    exact (Option.some.inj hb).symm
  decide +kernel

theorem witness_resolvesTo :
    resolvesTo Config.defaultAlphabet (codesOf "4au7E") [2, 8, 26, 5, 12] ∧
    fold Config.romTable [2, 8, 26, 5] = 12 ∧
    resolvesTo Config.defaultAlphabet (codesOf "4AU7F") [2, 8, 26, 5, 13] ∧
    fold Config.romTable [2, 8, 26, 5] ≠ 13 := by
  unfold resolvesTo
  decide +kernel

theorem witness_ConditionsAreCheckedInOrder :
    isReserved .reserved1110 = true ∧
    (isReserved .decodeGroup = false ∧ needsTable .decodeGroup = true ∧ State.reset.tableReady = false) ∧
    ((needsTable .decodeGroup = true → (smallWith (textPort "22222")).tableReady = true) ∧
      withinCapacity .decodeGroup (smallWith (textPort "22222")) = false) ∧
    ((needsTable .decodeGroup = true → (readyWith (textPort "2O2I2")).tableReady = true) ∧
      withinCapacity .decodeGroup (readyWith (textPort "2O2I2")) = true ∧
      (readyWith (textPort "2O2I2")).ports.text.length = 5 ∧
      firstUnresolved (readyWith (textPort "2O2I2")).alpha (readyWith (textPort "2O2I2")).ports.text 1 0x4F) ∧
    (readyWith (textPort "2222")).ports.text.length ≠ 5 ∧
    resolvesTo (readyWith (textPort "4AU7F")).alpha (readyWith (textPort "4AU7F")).ports.text [2, 8, 26, 5, 13] :=
  ⟨rfl, ⟨rfl, rfl, rfl⟩, ⟨fun _ => rfl, by decide +kernel⟩,
    ⟨fun _ => rfl, by decide +kernel, witness_firstUnresolved.2, witness_firstUnresolved.1⟩, by decide +kernel,
    witness_resolvesTo.2.2.1⟩

theorem witness_OnlyOperandsBeyondCapacityAreRefused :
    (smallWith { OperandPorts.zero with nat := 2 ^ 20 }).params.maxWords = some 1 ∧
    1 < (splitWords (2 ^ 20)).length ∧
    exec .splitWords (smallWith { OperandPorts.zero with nat := 2 ^ 20 }) = .refused .tooManyWords ∧
    exec .decodeKey (smallWith (textPort "22")) = .refused .sequenceTooLong ∧
    State.reset.params.maxWords = none ∧ State.reset.params.maxText = none :=
  ⟨rfl, by decide +kernel, rfl, rfl, rfl, rfl⟩

theorem witness_IsPoly : IsPoly (1 : Polynomial (ZMod 2)) (1 : BitVec 20) := by
  intro k
  rw [Polynomial.coeff_one]
  cases k with
  | zero => simp
  | succ k => simp [BitVec.getLsbD, Nat.testBit_succ]

theorem witness_IsMessage : ∃ M, IsMessage [1] M := by
  refine ⟨0 * Polynomial.X ^ 5 + 1, IsMessage.snoc (ds := []) .nil fun k => ?_⟩
  rw [Polynomial.coeff_one]
  cases k with
  | zero => simp
  | succ k => simp [BitVec.getLsbD, Nat.testBit_succ]

theorem witness_Crc5BitwiseAnswersBitSerialCrc : (19 : Nat) < 20 := by decide

/-- `TABLE_BUILD`, `TABLE_READ`, `ENCODE_WORD`: a ready good state and a state that is not ready. -/
theorem witness_ready_and_held :
    (readyWith OperandPorts.zero).Inv ∧ (readyWith OperandPorts.zero).tableReady = true ∧
    (readyWith OperandPorts.zero).ports.u20 = 0 ∧ State.reset.tableReady = false := ⟨readyWith_inv _, rfl, rfl, rfl⟩

/-- `CRC5_FOLD`, `SPLIT_WORDS`, `JOIN_WORDS`, `ENCODE_KEY`, `RENDER_DECODED`: an operand at the capacity, and one beyond. -/
theorem witness_capacity_boundary :
    fits (smallWith OperandPorts.zero).params.maxText ([7] : List Digit).length = true ∧
    fits (smallWith OperandPorts.zero).params.maxText ([7, 7] : List Digit).length = false ∧
    fits (smallWith OperandPorts.zero).params.maxWords (splitWords (2 ^ 20 - 1)).length = true ∧
    fits (smallWith OperandPorts.zero).params.maxWords (splitWords (2 ^ 20)).length = false ∧
    (smallWith OperandPorts.zero).tableReady = true := by decide +kernel

theorem witness_FoldOfShortSequencesIsCrc5 : ([1, 2, 3, 4] : List Digit).length ≤ 4 := by decide

theorem witness_CaseFoldingMapsLowercaseLettersOnly :
    ((0x61 : Code) ≤ 0x61 ∧ (0x61 : Code) ≤ 0x7A) ∧ ((0x60 : Code) < 0x61 ∨ (0x7A : Code) < 0x60) ∧
    alphabetOk Config.defaultAlphabet = true ∧ (0x80 : Code) ≤ 0x80 :=
  ⟨by decide, by decide, test_alphabet_default_ok, by decide⟩

theorem witness_SymbolOfAnswersAlphabetEntry :
    alphabetOk (readyWith { OperandPorts.zero with d5 := 31 }).alpha = true ∧
    (readyWith { OperandPorts.zero with d5 := 31 }).alpha = Config.defaultAlphabet ∧
    (readyWith { OperandPorts.zero with d5 := 31 }).ports.d5 = 31 ∧ (readyWith OperandPorts.zero).ports.d5 = 0 :=
  ⟨test_alphabet_default_ok, rfl, rfl, rfl⟩

theorem witness_DigitOfAnswersDigitOrInvalidSymbol :
    alphabetOk Config.defaultAlphabet = true ∧ Config.defaultAlphabet[(31 : Digit).toNat]! = casefold 0x7A ∧
    ∀ d : Digit, Config.defaultAlphabet[d.toNat]! ≠ casefold 0x6F :=
  ⟨test_alphabet_default_ok, by decide +kernel, by decide +kernel⟩

theorem witness_AlphabetRoundTrips :
    alphabetOk Config.defaultAlphabet = true ∧ digitOf Config.defaultAlphabet 0x7A = some 31 :=
  ⟨test_alphabet_default_ok, by decide +kernel⟩

theorem witness_SplitWordsAnswersBigEndianLimbs :
    (2 ^ 20 - 1) / 2 ^ 20 = 0 ∧ (2 ^ 20) / 2 ^ 20 ≠ 0 := by decide

theorem witness_SplitOfJoinIsIdentityExactly : (1 : Nat) ≠ 0 := by decide

theorem witness_DecodeGroupAnswersWordOrFirstError :
    (readyWith (textPort "2222")).tableReady = true ∧
    fits (readyWith (textPort "2222")).params.maxText (readyWith (textPort "2222")).ports.text.length = true ∧
    (readyWith (textPort "2222")).ports.text.length ≠ 5 ∧
    ((readyWith (textPort "2O2I2")).ports.text.length = 5 ∧
      firstUnresolved (readyWith (textPort "2O2I2")).alpha (readyWith (textPort "2O2I2")).ports.text 1 0x4F) ∧
    (resolvesTo (readyWith (textPort "4AU7F")).alpha (readyWith (textPort "4AU7F")).ports.text [2, 8, 26, 5, 13] ∧
      fold (readyWith (textPort "4AU7F")).table [2, 8, 26, 5] ≠ 13) ∧
    (resolvesTo (readyWith (textPort "4au7E")).alpha (readyWith (textPort "4au7E")).ports.text [2, 8, 26, 5, 12] ∧
      fold (readyWith (textPort "4au7E")).table [2, 8, 26, 5] = 12) ∧
    State.reset.tableReady = false :=
  ⟨rfl, rfl, by decide +kernel, ⟨witness_firstUnresolved.2, witness_firstUnresolved.1⟩,
    ⟨witness_resolvesTo.2.2.1, witness_resolvesTo.2.2.2⟩, ⟨witness_resolvesTo.1, witness_resolvesTo.2.1⟩, rfl⟩

theorem witness_ErrorPayloadsDescribeTheirCause :
    (let s := readyWith (textPort "20222")
     exec .decodeGroup s = .next (nextState (exec .decodeGroup s)) ∧
       (nextState (exec .decodeGroup s)).response = groupFailure (.invalidSymbol (codesOf "20222") 1 0x30)) ∧
    (let s := readyWith (textPort "22222-")
     exec .decodeKey s = .next (nextState (exec .decodeKey s)) ∧
       (nextState (exec .decodeKey s)).response =
         some (Response.ok (.results [.accepted 0, .rejected (.invalidLength [] 0)])) ∧
       ([.accepted 0, .rejected (.invalidLength [] 0)] : List GroupResult)[1]? =
         some (.rejected (.invalidLength [] 0))) ∧
    (let s := readyWith OperandPorts.zero
     exec .digitOf s = .next (nextState (exec .digitOf s)) ∧
       (nextState (exec .digitOf s)).response = some (Response.error .invalidSymbol (.ofChar 0 0))) :=
  ⟨⟨eq_next (by decide +kernel), by decide +kernel⟩, ⟨eq_next (by decide +kernel), by decide +kernel, rfl⟩,
    eq_next (by decide +kernel), by decide +kernel⟩

theorem witness_SingleCharacterErrorsAreDetected :
    alphabetOk Config.defaultAlphabet = true ∧ 4 < 5 ∧
    (readAlpha Config.defaultAlphabet 1 = 0x33 ∧
      (encodeWord Config.defaultAlphabet Config.romTable 0)[4]? ≠ some 0x33) ∧
    digitOf Config.defaultAlphabet 0x30 = none :=
  ⟨test_alphabet_default_ok, by decide, ⟨by decide +kernel, by decide +kernel⟩, by decide +kernel⟩

theorem witness_MultiCharacterErrorDetection :
    alphabetOk Config.defaultAlphabet = true ∧ 3 < 4 ∧
    (encodeWord Config.defaultAlphabet Config.romTable 0x12345)[3]? = some 0x37 ∧
    (encodeWord Config.defaultAlphabet Config.romTable 0x12345)[3 + 1]? = some 0x45 ∧ (0x37 : Code) ≠ 0x45 ∧
    (codesOf "4au7e").map casefold = encodeWord Config.defaultAlphabet Config.romTable 0x12345 :=
  ⟨test_alphabet_default_ok, by decide, by decide +kernel, by decide +kernel, by decide, by decide +kernel⟩

theorem witness_EncodeKeyAnswersJoinedGroups :
    (readyWith OperandPorts.zero).tableReady = true ∧
    fits (readyWith OperandPorts.zero).params.maxWords (splitWords (readyWith OperandPorts.zero).ports.nat).length = true ∧
    (readyWith OperandPorts.zero).Inv ∧ (readyWith OperandPorts.zero).ports.nat = 0 ∧
    splitWords (2 ^ 20) = 1 :: [0] := ⟨rfl, rfl, readyWith_inv _, rfl, by decide +kernel⟩

theorem witness_KeyTextHasItsShape :
    alphabetOk Config.defaultAlphabet = true ∧
    (encodeKey Config.defaultAlphabet Config.romTable (2 ^ 20))[5]? = some 0x2D ∧ 5 % 6 = 5 ∧
    (encodeKey Config.defaultAlphabet Config.romTable (2 ^ 20))[6]? = some 0x32 ∧ 6 % 6 ≠ 5 :=
  ⟨test_alphabet_default_ok, by decide +kernel, by decide, by decide +kernel, by decide⟩

theorem witness_DecodeKeyAnswersEveryField :
    (readyWith (textPort "22222-")).tableReady = true ∧
    fits (readyWith (textPort "22222-")).params.maxText (readyWith (textPort "22222-")).ports.text.length = true ∧
    ([codesOf "22222", []] : List Text) ≠ [] ∧ (∀ f ∈ ([codesOf "22222", []] : List Text), (0x2D : Code) ∉ f) ∧
    ([0x2D] : Text).intercalate [codesOf "22222", []] = (readyWith (textPort "22222-")).ports.text :=
  ⟨rfl, rfl, by decide, by decide +kernel, by decide +kernel⟩

theorem witness_OneFieldAffectsOnlyItsOwnResult :
    1 < ([codesOf "4AU7E", codesOf "2222", codesOf "ZZZZR"] : List Text).length ∧
    (∀ g ∈ ([codesOf "4AU7E", codesOf "2222", codesOf "ZZZZR"] : List Text), (0x2D : Code) ∉ g) ∧
    (0x2D : Code) ∉ codesOf "22222" := by decide +kernel

theorem witness_RenderDecodedAnswersFiveCharactersEach :
    let s := readyWith { OperandPorts.zero with results := [.accepted 0x12345, .rejected (.invalidLength [] 0)] }
    fits s.params.maxText s.ports.results.length = true ∧ s.ports.results[0]? = some (.accepted 0x12345) ∧
    s.ports.results[1]? = some (.rejected (.invalidLength [] 0)) ∧
    fits (some 1) s.ports.results.length = false := ⟨rfl, rfl, rfl, rfl⟩

theorem witness_KeyRoundTripThroughCommands :
    let s := readyWith { OperandPorts.zero with nat := 0x123456789ABCDEF }
    s.Inv ∧ s.tableReady = true ∧ s.params.maxWords = none ∧ s.params.maxText = none ∧
    (textPort "4AU7E").text = codesOf "4AU7E" ∧ { OperandPorts.zero with words := splitWords 5 }.words = splitWords 5 ∧
    { OperandPorts.zero with results := (splitWords 5).map GroupResult.accepted }.results =
      (splitWords 5).map GroupResult.accepted := ⟨readyWith_inv _, rfl, rfl, rfl, rfl, rfl, rfl⟩

theorem witness_AssembledLinePresentsSelectorAndOperand (fill : ErrKind → GroupError) :
    let s := { readyWith OperandPorts.zero with inputs := [assemble fill OperandPorts.zero (.tableRead 8)] }
    s.port = none ∧ s.inputs = assemble fill OperandPorts.zero (.tableRead 8) :: [] ∧
      PortName.text ∉ portsRead (AsmLine.tableRead 8).instr := ⟨rfl, rfl, by decide⟩

end Sys2Proof.Machine
end

section
/-!
What a command's response can be, operation by operation: first what the shared operations respond, then one inversion
for `exec`, then the shape of every response (10_state.md R24 with the types and sizes of 30_encoding.md R49).
-/

namespace Sys2Proof.Machine

/-! ### The response of the shared operations -/

@[simp] theorem responseOf_next (t : State) : responseOf (.next t) = t.response := rfl

@[simp] theorem responseOf_answer (s : State) (v : Result) : responseOf (answer s v) = some (Response.ok v) := rfl

@[simp] theorem responseOf_raise (s : State) (e : Status) (info : ErrInfo) :
    responseOf (raise s e info) = some (Response.error e info) := rfl

@[simp] theorem responseOf_whenReady_eq_some {s : State} {k : StepOutcome} {r : Response} :
    responseOf (whenReady s k) = some r ↔ s.tableReady = true ∧ responseOf k = some r := by
  cases hr : s.tableReady
  · simp [whenReady_of_not_ready hr, hold_eq]
  · simp [whenReady_of_ready hr]

@[simp] theorem responseOf_withinWords_eq_some {s : State} {n : Nat} {k : StepOutcome} {r : Response} :
    responseOf (withinWords s n k) = some r ↔ fits s.params.maxWords n = true ∧ responseOf k = some r := by
  cases hf : fits s.params.maxWords n
  · simp [withinWords_of_not_fits hf, responseOf]
  · simp [withinWords_of_fits hf]

@[simp] theorem responseOf_withinText_eq_some {s : State} {n : Nat} {k : StepOutcome} {r : Response} :
    responseOf (withinText s n k) = some r ↔ fits s.params.maxText n = true ∧ responseOf k = some r := by
  cases hf : fits s.params.maxText n
  · simp [withinText_of_not_fits hf, responseOf]
  · simp [withinText_of_fits hf]

/-! ### The response of a command -/

/-- The result `v` that the operation `i` returns with status `OK` from the state `s`. -/
inductive ReturnsResult (s : State) : Instr → Result → Prop where
  | crc5Bitwise   : ReturnsResult s .crc5Bitwise (.digit (crc5 s.ports.u20))
  | tableBuild    : ReturnsResult s .tableBuild (.digits builtTable.toList)
  | tableRead     : ReturnsResult s .tableRead (.digit (readTable s.table s.ports.d5))
  | crc5Fold      : ReturnsResult s .crc5Fold (.digit (fold s.table s.ports.digits))
  | symbolOf      : ReturnsResult s .symbolOf (.code (readAlpha s.alpha s.ports.d5))
  | digitOf {d}   : digitOf s.alpha s.ports.char = some d → ReturnsResult s .digitOf (.digit d)
  | splitWords    : ReturnsResult s .splitWords (.words (splitWords s.ports.nat))
  | joinWords     : ReturnsResult s .joinWords (.nat (joinWords s.ports.words))
  | encodeWord    : ReturnsResult s .encodeWord (.text (encodeWord s.alpha s.table s.ports.u20))
  | decodeGroup {w} :
    decodeGroup s.alpha s.table s.ports.text = .accepted w → ReturnsResult s .decodeGroup (.word w)
  | encodeKey     : ReturnsResult s .encodeKey (.text (encodeKey s.alpha s.table s.ports.nat))
  | decodeKey     : ReturnsResult s .decodeKey (.results (decodeKey s.alpha s.table s.ports.text))
  | renderDecoded : ReturnsResult s .renderDecoded (.text (render s.ports.results))

/-- The status and payload of the error that the operation `i` raises from the state `s`. -/
inductive RaisesError (s : State) : Instr → Status → ErrInfo → Prop where
  | digitOf : digitOf s.alpha s.ports.char = none →
    RaisesError s .digitOf .invalidSymbol (.ofChar 0 s.ports.char)
  | decodeGroup {e} : decodeGroup s.alpha s.table s.ports.text = .rejected e →
    RaisesError s .decodeGroup e.kind.status (.ofGroup e)
  | reserved {i} : isReserved i = true → RaisesError s i .illegalOp (.ofOp (encode i))

/-- The meaning of `DIGIT_OF` responds with the digit found, or with `INVALID_SYMBOL`. -/
theorem execDigitOf_response {s : State} {r : Response} (h : responseOf (execDigitOf s) = some r) :
    (∃ v, ReturnsResult s .digitOf v ∧ r = Response.ok v) ∨
    (∃ st info, RaisesError s .digitOf st info ∧ r = Response.error st info) := by
  unfold execDigitOf at h
  split at h
  next hd => exact .inl ⟨_, .digitOf hd, (Option.some.inj h).symm⟩
  next hd => exact .inr ⟨_, _, .digitOf hd, (Option.some.inj h).symm⟩

/-- The meaning of `DECODE_GROUP` responds with the accepted word, or with the error of the rejected group. -/
theorem execDecodeGroup_response {s : State} {r : Response} (h : responseOf (execDecodeGroup s) = some r) :
    (∃ v, ReturnsResult s .decodeGroup v ∧ r = Response.ok v) ∨
    (∃ st info, RaisesError s .decodeGroup st info ∧ r = Response.error st info) := by
  simp only [execDecodeGroup, responseOf_whenReady_eq_some, responseOf_withinText_eq_some] at h
  obtain ⟨-, -, h⟩ := h
  split at h
  next hg => exact .inl ⟨_, .decodeGroup hg, (Option.some.inj h).symm⟩
  next hg => exact .inr ⟨_, _, .decodeGroup hg, (Option.some.inj h).symm⟩

/-- A command that responds either returns its operation's result or raises one of its operation's errors. -/
theorem exec_response {i : Instr} {s : State} {r : Response} (h : responseOf (exec i s) = some r) :
    (∃ v, ReturnsResult s i v ∧ r = Response.ok v) ∨
    (∃ st info, RaisesError s i st info ∧ r = Response.error st info) := by
  cases i
  case digitOf => exact execDigitOf_response h
  case decodeGroup => exact execDecodeGroup_response h
  case reserved0000 => exact .inr ⟨_, _, .reserved rfl, (Option.some.inj h).symm⟩
  case reserved1110 => exact .inr ⟨_, _, .reserved rfl, (Option.some.inj h).symm⟩
  case reserved1111 => exact .inr ⟨_, _, .reserved rfl, (Option.some.inj h).symm⟩
  all_goals
    refine .inl ⟨_, by constructor, ?_⟩
    simp only [exec, execCrc5Bitwise, execTableBuild, execTableRead, execCrc5Fold, execSymbolOf, execSplitWords,
      execJoinWords, execEncodeWord, execEncodeKey, execDecodeKey, execRenderDecoded, responseOf_answer,
      responseOf_whenReady_eq_some, responseOf_withinWords_eq_some, responseOf_withinText_eq_some,
      Option.some.injEq] at h
    simp only [h]

/-! ### Types and sizes of results, statuses of errors -/

theorem encodeWord_length (α : Alphabet) (t : Table) (w : Word) : (encodeWord α t w).length = 5 := rfl

/-- Every key text has at least one field, so `DECODE_KEY` returns at least one group result. -/
theorem decodeKey_length_pos (α : Alphabet) (tb : Table) (t : Text) : 0 < (decodeKey α tb t).length := by
  simpa [decodeKey, splitKey] using List.length_pos_iff.mpr (splitFields_ne_nil [] t)

theorem ErrKind.status_ne_ok (k : ErrKind) : k.status ≠ .ok := by
  cases k <;> decide

theorem ReturnsResult.resultType_eq {s : State} {i : Instr} {v : Result} (h : ReturnsResult s i v) :
    resultType i = some v.type := by
  cases h <;> rfl

theorem ReturnsResult.tableBuild_length {s : State} {ds : List Digit}
    (h : ReturnsResult s .tableBuild (.digits ds)) : ds.length = 32 := by
  cases h
  exact Vector.length_toList

theorem ReturnsResult.words_length_pos {s : State} {i : Instr} {ws : List Word}
    (h : ReturnsResult s i (.words ws)) : 1 ≤ ws.length := by
  cases h
  exact splitWords_length_pos _

theorem ReturnsResult.encodeWord_length {s : State} {g : Text}
    (h : ReturnsResult s .encodeWord (.text g)) : g.length = 5 := by
  cases h
  exact Machine.encodeWord_length _ _ _

theorem ReturnsResult.results_length_pos {s : State} {i : Instr} {rs : List GroupResult}
    (h : ReturnsResult s i (.results rs)) : 1 ≤ rs.length := by
  cases h
  exact decodeKey_length_pos _ _ _

theorem RaisesError.status_ne_ok {s : State} {i : Instr} {st : Status} {info : ErrInfo}
    (h : RaisesError s i st info) : st ≠ .ok := by
  cases h with
  | digitOf _ => decide
  | decodeGroup _ => exact ErrKind.status_ne_ok _
  | reserved _ => decide

/-- Settles O20: a response is a returned result, whose type and size are its operation's, or a raised error, whose
status is never `OK`. -/
theorem responsesHaveTheirOperationsShape : Obligations.ResponsesHaveTheirOperationsShape := by
  intro i s t r hexec hr
  have hresp : responseOf (exec i s) = some r := by rw [hexec, responseOf_next, hr]
  obtain ⟨v, hv, rfl⟩ | ⟨st, info, he, rfl⟩ := exec_response hresp
  case inl =>
    refine ⟨fun _ => ⟨rfl, v, rfl, hv.resultType_eq, ?_, ?_, ?_, ?_⟩, fun hne => absurd rfl hne⟩
    · rintro ds rfl rfl
      exact hv.tableBuild_length
    · rintro ws rfl
      exact hv.words_length_pos
    · rintro g rfl rfl
      exact hv.encodeWord_length
    · rintro rs rfl
      exact hv.results_length_pos
  case inr =>
    exact ⟨fun hok => absurd hok he.status_ne_ok, fun _ => ⟨rfl, rfl⟩⟩

end Sys2Proof.Machine
end

section
/-!
The reserved selectors `0000`, `1110` and `1111` (30_encoding.md R51, 60_exceptions.md R101): which operations they are,
and the one answer they all give, in every state.
-/

namespace Sys2Proof.Machine

theorem isReserved_iff {i : Instr} :
    isReserved i = true ↔ i = .reserved0000 ∨ i = .reserved1110 ∨ i = .reserved1111 := by
  simp [isReserved]

theorem illegalOp_eq (op : Selector) (s : State) :
    illegalOp op s = .next (answered s (Response.error .illegalOp (.ofOp op))) := raise_eq s _ _

/-- No premise on `s`: a reserved operation reads no operand and is not held while the table is being built. -/
theorem exec_of_isReserved {i : Instr} (h : isReserved i = true) (s : State) :
    exec i s = .next (answered s (Response.error .illegalOp (.ofOp (encode i)))) := by
  obtain rfl | rfl | rfl := isReserved_iff.mp h
  · exact illegalOp_eq 0b0000 s
  · exact illegalOp_eq 0b1110 s
  · exact illegalOp_eq 0b1111 s

/-- Settles O25: the answer common to the reserved operations, at each of the three. -/
theorem reservedSelectorsAnswerIllegalOp : Obligations.ReservedSelectorsAnswerIllegalOp := by
  intro s
  exact ⟨exec_of_isReserved (isReserved_iff.mpr (.inl rfl)) s,
    exec_of_isReserved (isReserved_iff.mpr (.inr (.inl rfl))) s,
    exec_of_isReserved (isReserved_iff.mpr (.inr (.inr rfl))) s⟩

end Sys2Proof.Machine
end

section
/-!
The CRC-5 engine (40_crc5.md): what its four commands answer, are held for or refuse (R59, R62 to R64), and the
agreement of the two paths (R66). Both paths are linear over XOR: the bit-serial one because each step XORs in the
generator or not by a single bit of the register, the table because its entries are values of `crc5`. So the two have
to be compared only on one digit at each of the four positions.
-/

namespace Sys2Proof.Machine

/-! ### The bit-serial path -/

/-- A step of the loop in the terms of R59's pseudocode; in the loop's range the tested bit lies in the register. -/
theorem crcStep_eq {i : Nat} (hi : i < 20) (r : BitVec 25) :
    crcStep i r = if r[i + 5]! = true then r ^^^ ((0b100101 : BitVec 25) <<< i) else r := by
  have hbit : r[i + 5]! = r.getLsbD (i + 5) := by
    rw [getElem!_pos r (i + 5) (by omega), BitVec.getLsbD_eq_getElem]
  have hgen : Config.generator.setWidth 25 = 0b100101 := rfl
  rw [crcStep, hbit, hgen]

theorem crcStep_xor (i : Nat) (r r' : BitVec 25) : crcStep i (r ^^^ r') = crcStep i r ^^^ crcStep i r' := by
  unfold crcStep
  rw [BitVec.getLsbD_xor]
  generalize Config.generator.setWidth 25 <<< i = g
  cases r.getLsbD (i + 5) <;> cases r'.getLsbD (i + 5)
  case false.false => rfl
  case false.true => exact BitVec.xor_assoc r r' g
  case true.false =>
    show r ^^^ r' ^^^ g = (r ^^^ g) ^^^ r'
    ac_rfl
  case true.true =>
    show r ^^^ r' = (r ^^^ g) ^^^ (r' ^^^ g)
    have hg : (r ^^^ g) ^^^ (r' ^^^ g) = (r ^^^ r') ^^^ (g ^^^ g) := by ac_rfl
    rw [hg, BitVec.xor_self, BitVec.xor_zero]

theorem crcSteps_xor (k : Nat) (r r' : BitVec 25) : crcSteps k (r ^^^ r') = crcSteps k r ^^^ crcSteps k r' := by
  induction k generalizing r r' with
  | zero => rfl
  | succ k ih => rw [crcSteps, crcStep_xor, ih, crcSteps, crcSteps]

/-- The bit-serial CRC is linear over XOR (40_crc5.md R69). -/
theorem crc5_xor (m n : Word) : crc5 (m ^^^ n) = crc5 m ^^^ crc5 n := by
  simp only [crc5, BitVec.setWidth_xor, BitVec.shiftLeft_xor_distrib, crcSteps_xor]

/-- Settles O26: `CRC5_BITWISE` has no guard, and `crc5` is defined by R59's loop. -/
theorem crc5BitwiseAnswersBitSerialCrc : Obligations.Crc5BitwiseAnswersBitSerialCrc := by
  refine ⟨fun s => answer_eq s _, fun n => ?lowBits, fun _ _ => rfl, fun _ => rfl, fun r i hi => crcStep_eq hi r,
    by decide +kernel, by decide +kernel⟩
  case lowBits => exact BitVec.setWidth_eq_extractLsb' (by decide)

/-! ### The table -/

/-- An operation that needs the table is held while the table is not ready, whatever else the state holds. -/
theorem exec_of_held {i : Instr} {s : State} (hi : needsTable i = true) (hr : s.tableReady = false) :
    exec i s = .next (idle s) := by
  cases i
  case tableBuild | tableRead | crc5Fold | encodeWord | decodeGroup | encodeKey | decodeKey =>
    exact whenReady_of_not_ready hr _
  all_goals exact absurd hi (by decide)

theorem readTable_eq_getElem! (t : Table) (i : Digit) : readTable t i = t[i.toNat]! :=
  (getElem!_pos t i.toNat i.isLt).symm

theorem readTable_builtTable (i : Digit) : readTable builtTable i = crc5 (i.setWidth 20) := by
  simp [readTable, builtTable]

/-- The table the spec prints holds `crc5` of every index (40_crc5.md R61). -/
theorem readTable_romTable (i : Digit) : readTable Config.romTable i = crc5 (i.setWidth 20) := by
  rw [← builtTable_eq, readTable_builtTable]

theorem readTable_romTable_zero : readTable Config.romTable 0 = 0 := rfl

/-- Settles O28: what the command writes and returns is the printed table, and a good ready state holds it already. -/
theorem tableBuildAnswersPrintedTable : Obligations.TableBuildAnswersPrintedTable := by
  refine ⟨fun s hr => ?answers, readTable_romTable, fun s hs hr => ?unchanged, fun s hr => exec_of_held rfl hr⟩
  case answers =>
    calc exec .tableBuild s
        = answer (writeTable s builtTable) (.digits builtTable.toList) := whenReady_of_ready hr _
      _ = answer (writeTable s Config.romTable) (.digits Config.romTable.toList) := by rw [builtTable_eq]
  case unchanged => rw [← hs.tableConstant hr]

theorem exec_tableRead_of_ready {s : State} (hr : s.tableReady = true) :
    exec .tableRead s = .next (answered s (Response.ok (.digit (readTable s.table s.ports.d5)))) :=
  whenReady_of_ready hr _

/-- Settles O29: the entry read is the table's own, and under the invariant the table is the printed one. -/
theorem tableReadAnswersEntry : Obligations.TableReadAnswersEntry := by
  refine ⟨fun s hr => ?entry, fun s hs hr => ?constant, fun s hr => exec_of_held rfl hr, by decide +kernel,
    by decide +kernel, by decide +kernel⟩
  case entry =>
    rw [exec_tableRead_of_ready hr, readTable_eq_getElem!]
    rfl
  case constant =>
    rw [exec_tableRead_of_ready hr, hs.tableConstant hr, readTable_romTable]
    rfl

/-! ### The table-driven path -/

theorem fold_singleton (t : Table) (d : Digit) : fold t [d] = readTable t d := by
  simpa [fold_nil] using fold_append t [] d

/-- A leading zero digit does not change the fold, because entry 0 of the printed table is 0 (40_crc5.md R64). -/
theorem fold_romTable_zero_cons (ds : List Digit) :
    fold Config.romTable (0 :: ds) = fold Config.romTable ds := by
  have hzero : foldStep Config.romTable 0 0 = 0 := readTable_romTable_zero
  rw [fold, List.foldl_cons, hzero, fold]

theorem fold_romTable_replicate_zero (n : Nat) : fold Config.romTable (List.replicate n 0) = 0 := by
  induction n with
  | zero => exact fold_nil _
  | succ n ih => rw [List.replicate_succ, fold_romTable_zero_cons, ih]

/-- Settles O30: the table-ready hold, then the capacity, then the fold; the rest are equations of the fold. -/
theorem crc5FoldAnswersFold : Obligations.Crc5FoldAnswersFold := by
  refine ⟨fun s hr hf => ?answers, fun s hr hf => ?refused, fun s hr => exec_of_held rfl hr, fun t ds d => ?append,
    fold_nil, fun t d => ?single, fold_romTable_zero_cons, fold_romTable_replicate_zero, by decide +kernel⟩
  case answers => exact (whenReady_of_ready hr _).trans (withinText_of_fits hf _)
  case refused => exact (whenReady_of_ready hr _).trans (withinText_of_not_fits hf _)
  case append => rw [fold_append, readTable_eq_getElem!]
  case single => rw [fold_singleton, readTable_eq_getElem!]

/-! ### Agreement of the two paths -/

theorem readTable_romTable_xor (u v : Digit) :
    readTable Config.romTable (u ^^^ v) = readTable Config.romTable u ^^^ readTable Config.romTable v := by
  simp only [readTable_romTable, BitVec.setWidth_xor, crc5_xor]

/-- A word is the XOR of its four digits, each at its own position. -/
theorem word_eq_xor_digits (n : Word) :
    n = (n.extractLsb' 15 5).setWidth 20 <<< 15 ^^^ (n.extractLsb' 10 5).setWidth 20 <<< 10 ^^^
      (n.extractLsb' 5 5).setWidth 20 <<< 5 ^^^ (n.extractLsb' 0 5).setWidth 20 := by
  ext i hi
  interval_cases i <;> simp

/-- The bit-serial CRC of a digit with `k` zero digits after it: one lookup for the digit, and one for each zero. -/
theorem crc5_digit_shiftLeft :
    ∀ k < 4, ∀ d : Digit, crc5 (d.setWidth 20 <<< (5 * k)) = (readTable Config.romTable)^[k + 1] d := by
  decide +kernel

/-- In the fold of four digits each goes through the table once for itself and once for each digit after it. -/
theorem fold_romTable_four (a b c d : Digit) :
    fold Config.romTable [a, b, c, d] =
      (readTable Config.romTable)^[4] a ^^^ (readTable Config.romTable)^[3] b ^^^
        (readTable Config.romTable)^[2] c ^^^ readTable Config.romTable d := by
  simp only [fold, foldStep, List.foldl_cons, List.foldl_nil, readTable_romTable_xor,
    readTable_romTable_zero, Function.iterate_succ_apply', Function.iterate_zero_apply]
  ac_rfl

/-- Settles O32: both paths are linear over XOR, and they agree on a digit at each of the four positions. -/
theorem bitSerialAndTableDrivenPathsAgree : Obligations.BitSerialAndTableDrivenPathsAgree := by
  intro n
  rw [digits4, fold_romTable_four, ← crc5_digit_shiftLeft 3 (by decide), ← crc5_digit_shiftLeft 2 (by decide),
    ← crc5_digit_shiftLeft 1 (by decide), readTable_romTable, ← crc5_xor, ← crc5_xor, ← crc5_xor]
  exact congrArg crc5 (word_eq_xor_digits n)

end Sys2Proof.Machine
end

section
/-!
The base-32 alphabet (41_alphabet.md): what an admissible alphabet gives (R70), the two ranges of case folding (R72),
and what `SYMBOL_OF` and `DIGIT_OF` answer (R73, R74). An admissible alphabet repeats no symbol, so the digit that the
reverse lookup finds is the only one with that symbol.
-/

namespace Sys2Proof.Machine

/-! ### The entries of an admissible alphabet -/

theorem alphabetOk_iff {α : Alphabet} :
    alphabetOk α = true ↔
      alphabetDistinct α = true ∧ alphabetPrintable α = true ∧ alphabetUnambiguous α = true ∧
        alphabetStartsWithTwo α = true ∧ alphabetNoLowercase α = true ∧ alphabetNoSeparator α = true := by
  simp only [alphabetOk, Bool.and_eq_true, and_assoc]

theorem readAlpha_eq_getElem! (α : Alphabet) (d : Digit) : readAlpha α d = α[d.toNat]! :=
  (getElem!_pos α d.toNat d.isLt).symm

theorem readAlpha_mem_toList (α : Alphabet) (d : Digit) : readAlpha α d ∈ α.toList :=
  Vector.mem_toList_iff.mpr (Vector.getElem_mem d.isLt)

/-- Digits with the same symbol are the same digit (41_alphabet.md R70 item 1). -/
theorem readAlpha_injective {α : Alphabet} (hα : alphabetOk α = true) : Function.Injective (readAlpha α) := by
  obtain ⟨hdistinct, -⟩ := alphabetOk_iff.mp hα
  have hnodup : α.toList.Nodup := of_decide_eq_true hdistinct
  intro d e hde
  have hentries : α.toList[d.toNat]'(by simpa using d.isLt) = α.toList[e.toNat]'(by simpa using e.isLt) := by
    simpa only [readAlpha, Vector.getElem_toList] using hde
  exact BitVec.eq_of_toNat_eq ((hnodup.getElem_inj_iff).mp hentries)

/-- 41_alphabet.md R70 item 2. -/
theorem readAlpha_printable {α : Alphabet} (hα : alphabetOk α = true) (d : Digit) :
    0x21 ≤ readAlpha α d ∧ readAlpha α d ≤ 0x7E := by
  obtain ⟨-, hprintable, -⟩ := alphabetOk_iff.mp hα
  simpa using List.all_eq_true.mp hprintable _ (readAlpha_mem_toList α d)

/-- 41_alphabet.md R70 item 4. -/
theorem readAlpha_zero {α : Alphabet} (hα : alphabetOk α = true) : readAlpha α 0 = 0x32 := by
  obtain ⟨-, -, -, htwo, -⟩ := alphabetOk_iff.mp hα
  exact eq_of_beq htwo

/-- 41_alphabet.md R70 item 5. -/
theorem readAlpha_not_lowercase {α : Alphabet} (hα : alphabetOk α = true) (d : Digit) :
    readAlpha α d < 0x61 ∨ 0x7A < readAlpha α d := by
  obtain ⟨-, -, -, -, hlower, -⟩ := alphabetOk_iff.mp hα
  simpa using List.all_eq_true.mp hlower _ (readAlpha_mem_toList α d)

/-! ### The reverse lookup -/

/-- Any alphabet: a character resolves to no digit exactly when its folded form is no symbol. -/
theorem digitOf_eq_none_iff {α : Alphabet} {c : Code} :
    digitOf α c = none ↔ ∀ d, readAlpha α d ≠ casefold c := by
  obtain ⟨d, hd, hsym⟩ | ⟨hnone, hno⟩ := digitOf_spec α c
  · exact ⟨fun h => absurd (hd.symm.trans h) (Option.some_ne_none d), fun h => absurd hsym (h d)⟩
  · exact ⟨fun _ => hno, fun _ => hnone⟩

/-- An admissible alphabet: a character resolves to the one digit whose symbol is its folded form. -/
theorem digitOf_eq_some_iff {α : Alphabet} {c : Code} {d : Digit} (hα : alphabetOk α = true) :
    digitOf α c = some d ↔ readAlpha α d = casefold c := by
  obtain ⟨e, he, hsym⟩ | ⟨hnone, hno⟩ := digitOf_spec α c
  · rw [he, Option.some_inj, ← hsym, (readAlpha_injective hα).eq_iff, eq_comm]
  · exact ⟨fun h => absurd (hnone.symm.trans h) (Option.some_ne_none d).symm, fun h => absurd h (hno d)⟩

/-! ### Case folding -/

theorem not_lowercase_iff {c : Code} : ¬(0x61 ≤ c ∧ c ≤ 0x7A) ↔ c < 0x61 ∨ 0x7A < c := by
  simp only [not_and_or, BitVec.not_le]

theorem casefold_of_lowercase {c : Code} (h : 0x61 ≤ c ∧ c ≤ 0x7A) : casefold c = c - 0x20 := if_pos h

theorem casefold_of_not_lowercase {c : Code} (h : c < 0x61 ∨ 0x7A < c) : casefold c = c :=
  if_neg (not_lowercase_iff.mpr h)

/-- A code from 0x80 up is beyond every symbol, and folding leaves it there (41_alphabet.md R72). -/
theorem digitOf_of_ge_0x80 {α : Alphabet} {c : Code} (hα : alphabetOk α = true) (hc : 0x80 ≤ c) :
    digitOf α c = none := by
  rw [digitOf_eq_none_iff, casefold_of_not_lowercase (.inr (by bv_omega))]
  intro d hd
  have hle : readAlpha α d ≤ 0x7E := (readAlpha_printable hα d).2
  rw [hd] at hle
  bv_omega

/-- Settles O35: the two branches of the folding, and the codes from 0x80 up in the second of them. -/
theorem caseFoldingMapsLowercaseLettersOnly : Obligations.CaseFoldingMapsLowercaseLettersOnly := by
  refine ⟨fun c hlo hhi => casefold_of_lowercase ⟨hlo, hhi⟩, fun c h => casefold_of_not_lowercase h,
    fun α c hα hc => ?_⟩
  exact ⟨casefold_of_not_lowercase (.inr (by bv_omega)), digitOf_of_ge_0x80 hα hc⟩

/-! ### The two commands -/

/-- Settles O36: `SYMBOL_OF` has no guard, and R70 says what the entries of an admissible alphabet are. -/
theorem symbolOfAnswersAlphabetEntry : Obligations.SymbolOfAnswersAlphabetEntry := by
  intro s
  rw [← readAlpha_eq_getElem!]
  refine ⟨answer_eq s _, fun hα => ⟨fun hd => ?zero, not_lowercase_iff.mpr (readAlpha_not_lowercase hα _)⟩,
    fun hα => ?default⟩
  case zero => rw [hd, readAlpha_zero hα]
  case default =>
    rw [hα]
    exact ⟨fun hd => by rw [hd]; rfl, fun hd => by rw [hd]; rfl⟩

theorem exec_digitOf_of_some {s : State} {d : Digit} (h : digitOf s.alpha s.ports.char = some d) :
    exec .digitOf s = .next (answered s (Response.ok (.digit d))) := by
  show execDigitOf s = _
  rw [execDigitOf, h]
  exact answer_eq s _

theorem exec_digitOf_of_none {s : State} (h : digitOf s.alpha s.ports.char = none) :
    exec .digitOf s = .next (answered s (Response.error .invalidSymbol (.ofChar 0 s.ports.char))) := by
  show execDigitOf s = _
  rw [execDigitOf, h]
  exact raise_eq s _ _

/-- Settles O37: the command answers what the reverse lookup finds, and R74's corner cases are looked up. -/
theorem digitOfAnswersDigitOrInvalidSymbol : Obligations.DigitOfAnswersDigitOrInvalidSymbol := by
  refine ⟨fun s hα => ?answers, by decide +kernel, by decide +kernel, by decide +kernel⟩
  simp only [← readAlpha_eq_getElem!]
  exact ⟨fun d hd => exec_digitOf_of_some ((digitOf_eq_some_iff hα).mpr hd),
    fun hno => exec_digitOf_of_none (digitOf_eq_none_iff.mpr hno)⟩

end Sys2Proof.Machine
end

section
/-!
The words of an integer (42_words.md): splitting takes the low 20 bits off until nothing is left (R76), joining is the
left fold of the words (R77), and the join of a split gives the integer back (R78). Each is first an equation at the
last word: `n` splits into the words of `n / 2 ^ 20` and the word `n % 2 ^ 20`, and a word joins to `ws` as the low
20 bits.
-/

namespace Sys2Proof.Machine

/-! ### Splitting at the last word -/

/-- The low 20 bits that a turn of the loop prepends, as a word. -/
theorem ofNat_and_lowBits (n : Nat) : BitVec.ofNat 20 (n &&& 0xFFFFF) = BitVec.ofNat 20 (n % 2 ^ 20) :=
  congrArg (BitVec.ofNat 20) (Nat.and_two_pow_sub_one_eq_mod n 20)

theorem splitLoop_succ_of_div_eq_zero {n : Nat} (h : n / 2 ^ 20 = 0) (turns : Nat) :
    splitLoop (turns + 1) n [] = [BitVec.ofNat 20 n] := by
  have hlt : n < 2 ^ 20 := Nat.lt_of_div_eq_zero (by decide) h
  rw [splitLoop, Nat.shiftRight_eq_div_pow, if_pos h, ofNat_and_lowBits, Nat.mod_eq_of_lt hlt]

theorem splitLoop_succ_of_div_ne_zero {n : Nat} (h : n / 2 ^ 20 ≠ 0) (turns : Nat) :
    splitLoop (turns + 1) n [] = splitLoop turns (n / 2 ^ 20) [] ++ [BitVec.ofNat 20 (n % 2 ^ 20)] := by
  rw [splitLoop, Nat.shiftRight_eq_div_pow, if_neg h, ofNat_and_lowBits, splitLoop_append]

/-- The bound on the turns of the loop goes down by one for every word taken off. -/
theorem log2_div_twenty_of_div_ne_zero {n : Nat} (h : n / 2 ^ 20 ≠ 0) :
    n.log2 / 20 = (n / 2 ^ 20).log2 / 20 + 1 := by
  have hlog : (n / 2 ^ 20).log2 = n.log2 - 20 := by
    simp only [Nat.log2_eq_log_two, Nat.log_div_base_pow]
  have hle : 20 ≤ n.log2 := (Nat.le_log2 (by omega)).mpr (by omega)
  omega

theorem splitWords_of_div_eq_zero {n : Nat} (h : n / 2 ^ 20 = 0) : splitWords n = [BitVec.ofNat 20 n] :=
  splitLoop_succ_of_div_eq_zero h _

theorem splitWords_of_div_ne_zero {n : Nat} (h : n / 2 ^ 20 ≠ 0) :
    splitWords n = splitWords (n / 2 ^ 20) ++ [BitVec.ofNat 20 (n % 2 ^ 20)] := by
  rw [splitWords, splitLoop_succ_of_div_ne_zero h, log2_div_twenty_of_div_ne_zero h, splitWords]

/-- Settles O39: the capacity guard, and the two cases of the loop's test at the last word. -/
theorem splitWordsAnswersBigEndianLimbs : Obligations.SplitWordsAnswersBigEndianLimbs :=
  ⟨fun _ hf => withinWords_of_fits hf _, fun _ hf => withinWords_of_not_fits hf _,
    fun _ h => splitWords_of_div_eq_zero h, fun _ h => splitWords_of_div_ne_zero h,
    by decide +kernel⟩

/-! ### Joining at the first and at the last word -/

/-- A leading zero word leaves the accumulator of the fold at 0. -/
theorem joinWords_zero_cons (ws : List Word) : joinWords (0 :: ws) = joinWords ws := rfl

/-- A word has 20 bits, so the OR never overlaps the shifted accumulator (42_words.md R77). -/
theorem joinWords_append_eq_add (ws : List Word) (w : Word) :
    joinWords (ws ++ [w]) = joinWords ws * 2 ^ 20 + w.toNat := by
  rw [joinWords_append, ← Nat.shiftLeft_add_eq_or_of_lt w.isLt, Nat.shiftLeft_eq]

theorem joinWords_singleton (w : Word) : joinWords [w] = w.toNat := by
  simp [joinWords]

/-- Settles O40: the capacity guard, and the fold at its ends. -/
theorem joinWordsAnswersLeftFold : Obligations.JoinWordsAnswersLeftFold :=
  ⟨fun _ hf => withinWords_of_fits hf _, fun _ hf => withinWords_of_not_fits hf _, rfl, joinWords_append,
    joinWords_zero_cons, by decide +kernel⟩

/-! ### Round trip -/

/-- Settles O41, by induction on the integer that is left when the last word is taken off. -/
theorem joinOfSplitIsIdentity : Obligations.JoinOfSplitIsIdentity := by
  intro n
  induction n using Nat.strongRecOn with
  | ind n ih =>
    by_cases h : n / 2 ^ 20 = 0
    · have hlt : n < 2 ^ 20 := Nat.lt_of_div_eq_zero (by decide) h
      rw [splitWords_of_div_eq_zero h, joinWords_singleton, BitVec.toNat_ofNat, Nat.mod_eq_of_lt hlt]
    · have hlt : n / 2 ^ 20 < n := Nat.div_lt_self (by omega) (by decide)
      calc joinWords (splitWords n)
          = joinWords (splitWords (n / 2 ^ 20)) * 2 ^ 20 + n % 2 ^ 20 := by
            rw [splitWords_of_div_ne_zero h, joinWords_append_eq_add, BitVec.toNat_ofNat, Nat.mod_mod]
        _ = n / 2 ^ 20 * 2 ^ 20 + n % 2 ^ 20 := by rw [ih _ hlt]
        _ = n := Nat.div_add_mod' n _

end Sys2Proof.Machine
end

section
/-!
The group encoder (43_group_encoder.md R80): the group of a word is the symbols of its four data digits and of their
fold. The word 0 has five digits 0, because the printed table folds zeros to 0, and an admissible alphabet has `'2'` for
the digit 0.
-/

namespace Sys2Proof.Machine

theorem exec_encodeWord_of_ready {s : State} (hr : s.tableReady = true) :
    exec .encodeWord s = .next (answered s (Response.ok (.text (encodeWord s.alpha s.table s.ports.u20)))) :=
  whenReady_of_ready hr _

theorem encodeWord_eq_symbols (α : Alphabet) (t : Table) (w : Word) :
    encodeWord α t w = [readAlpha α (w.extractLsb' 15 5), readAlpha α (w.extractLsb' 10 5),
      readAlpha α (w.extractLsb' 5 5), readAlpha α (w.extractLsb' 0 5), readAlpha α (fold t (digits4 w))] := rfl

theorem digits4_zero : digits4 0 = List.replicate 4 0 := by decide

/-- 43_group_encoder.md R80: `"22222"`. -/
theorem encodeWord_romTable_zero {α : Alphabet} (hα : alphabetOk α = true) :
    encodeWord α Config.romTable 0 = List.replicate 5 0x32 := by
  rw [encodeWord, digits4_zero, fold_romTable_replicate_zero, ← List.replicate_succ', List.map_replicate,
    readAlpha_zero hα]

/-- Settles O43: the hold, then the symbols of the five digits; under the invariant the table is the printed one and the
alphabet admissible, which gives the word 0 its group. -/
theorem encodeWordAnswersGroup : Obligations.EncodeWordAnswersGroup := by
  refine ⟨fun s hr a b c d e ha hb hc hd he => ?symbols, fun s hs hr hw => ?zero, fun s hr => exec_of_held rfl hr,
    by decide +kernel, by decide +kernel⟩
  case symbols =>
    subst ha hb hc hd he
    rw [exec_encodeWord_of_ready hr, encodeWord_eq_symbols]
    rfl
  case zero =>
    rw [exec_encodeWord_of_ready hr, hw, hs.tableConstant hr, encodeWord_romTable_zero hs.alphabet]
    rfl

end Sys2Proof.Machine
end

section
/-!
The group decoder (44_group_decoder.md): the group's text decides between three cases, a wrong length, a first character
that does not resolve, and five digits. The decoder (R84) and the source's state machine (R85) are each told case by
case, and agree in every case.
-/

namespace Sys2Proof.Machine

/-! ### The digits of a text, or its first unresolved character -/

theorem resolvesTo_nil (α : Alphabet) : resolvesTo α [] [] := rfl

theorem resolvesTo_cons_iff {α : Alphabet} {x : Code} {g : Text} {d : Digit} {ds : List Digit} :
    resolvesTo α (x :: g) (d :: ds) ↔ digitOf α x = some d ∧ resolvesTo α g ds := by
  simp [resolvesTo]

theorem resolvesTo.length_eq {α : Alphabet} {g : Text} {ds : List Digit} (h : resolvesTo α g ds) :
    g.length = ds.length := by
  simpa using congrArg List.length h

theorem resolvesTo.filterMap_digitOf {α : Alphabet} {g : Text} {ds : List Digit} (h : resolvesTo α g ds) :
    g.filterMap (digitOf α) = ds := by
  calc g.filterMap (digitOf α) = (g.map (digitOf α)).filterMap id := by rw [List.filterMap_map, Function.id_comp]
    _ = (ds.map some).filterMap id := by rw [h]
    _ = ds := by simp

theorem resolvesTo.isSome_digitOf {α : Alphabet} {g : Text} {ds : List Digit} (h : resolvesTo α g ds) {c : Code}
    (hc : c ∈ g) : (digitOf α c).isSome = true := by
  have hmem : digitOf α c ∈ ds.map some := h ▸ List.mem_map_of_mem hc
  obtain ⟨d, -, hd⟩ := List.mem_map.mp hmem
  rw [← hd, Option.isSome_some]

theorem not_firstUnresolved_nil {α : Alphabet} {k : Nat} {c : Code} : ¬ firstUnresolved α [] k c := by
  simp [firstUnresolved]

theorem firstUnresolved_cons_zero_iff {α : Alphabet} {x : Code} {g : Text} {c : Code} :
    firstUnresolved α (x :: g) 0 c ↔ x = c ∧ digitOf α c = none := by
  simp [firstUnresolved]

theorem firstUnresolved_cons_succ_iff {α : Alphabet} {x : Code} {g : Text} {k : Nat} {c : Code} :
    firstUnresolved α (x :: g) (k + 1) c ↔ (∃ d, digitOf α x = some d) ∧ firstUnresolved α g k c := by
  simp only [firstUnresolved, Nat.forall_lt_succ_left, List.getElem?_cons_zero, List.getElem?_cons_succ,
    Option.some_inj, forall_eq', Option.isSome_iff_exists, and_left_comm]

/-- A text resolves as a whole, or has a first character that does not. -/
theorem resolvesTo_or_firstUnresolved (α : Alphabet) (g : Text) :
    (∃ ds, resolvesTo α g ds) ∨ ∃ k c, firstUnresolved α g k c := by
  induction g with
  | nil => exact .inl ⟨[], resolvesTo_nil α⟩
  | cons x g ih =>
    cases hx : digitOf α x with
    | none => exact .inr ⟨0, x, firstUnresolved_cons_zero_iff.mpr ⟨rfl, hx⟩⟩
    | some d =>
      obtain ⟨ds, hds⟩ | ⟨k, c, hkc⟩ := ih
      · exact .inl ⟨d :: ds, resolvesTo_cons_iff.mpr ⟨hx, hds⟩⟩
      · exact .inr ⟨k + 1, c, firstUnresolved_cons_succ_iff.mpr ⟨⟨d, hx⟩, hkc⟩⟩

/-! ### The decoder, case by case -/

theorem decodeGroup_of_length_ne {α : Alphabet} {t : Table} {g : Text} (h : g.length ≠ 5) :
    decodeGroup α t g = .rejected (.invalidLength g g.length) := by
  unfold decodeGroup
  split
  next => exact absurd rfl h
  next => rfl

theorem resolveAt_of_some {α : Alphabet} {c : Code} {d : Digit} (h : digitOf α c = some d) (g : Text) (k : Nat)
    (go : Digit → GroupResult) : resolveAt α g k c go = go d := by
  simp [resolveAt, h]

theorem resolveAt_of_none {α : Alphabet} {c : Code} (h : digitOf α c = none) (g : Text) (k : Nat)
    (go : Digit → GroupResult) : resolveAt α g k c go = .rejected (.invalidSymbol g k c) := by
  simp [resolveAt, h]

/-- The scan of `g` at position `n`, where `x :: rest` is left of it, rejects at the first unresolved character, if what
it goes on with at position `n + 1` does. -/
theorem resolveAt_of_firstUnresolved {α : Alphabet} {g rest : Text} {x c : Code} {n k : Nat}
    {go : Digit → GroupResult} (h : firstUnresolved α (x :: rest) k c)
    (hgo : ∀ d j, firstUnresolved α rest j c → go d = .rejected (.invalidSymbol g (j + (n + 1)) c)) :
    resolveAt α g n x go = .rejected (.invalidSymbol g (k + n) c) := by
  cases k with
  | zero =>
    obtain ⟨rfl, hx⟩ := firstUnresolved_cons_zero_iff.mp h
    rw [resolveAt_of_none hx, Nat.zero_add]
  | succ k =>
    obtain ⟨⟨d, hx⟩, hk⟩ := firstUnresolved_cons_succ_iff.mp h
    rw [resolveAt_of_some hx, hgo d k hk, Nat.add_right_comm, Nat.add_assoc]

theorem decodeGroup_of_firstUnresolved {α : Alphabet} (t : Table) {g : Text} {k : Nat} {c : Code}
    (hlen : g.length = 5) (h : firstUnresolved α g k c) :
    decodeGroup α t g = .rejected (.invalidSymbol g k c) :=
  match g, hlen with
  | [_, _, _, _, _], _ =>
    resolveAt_of_firstUnresolved h fun _ _ h1 =>
    resolveAt_of_firstUnresolved h1 fun _ _ h2 =>
    resolveAt_of_firstUnresolved h2 fun _ _ h3 =>
    resolveAt_of_firstUnresolved h3 fun _ _ h4 =>
    resolveAt_of_firstUnresolved h4 fun _ _ h5 => absurd h5 not_firstUnresolved_nil

theorem decodeGroup_of_resolvesTo {α : Alphabet} (t : Table) {g : Text} {a b c d e : Digit}
    (h : resolvesTo α g [a, b, c, d, e]) : decodeGroup α t g = checkDigits t g a b c d e := by
  match g, h.length_eq with
  | [g0, g1, g2, g3, g4], _ =>
    simp only [resolvesTo_cons_iff] at h
    obtain ⟨h0, h1, h2, h3, h4, -⟩ := h
    rw [decodeGroup, resolveAt_of_some h0, resolveAt_of_some h1, resolveAt_of_some h2, resolveAt_of_some h3,
      resolveAt_of_some h4]

theorem checkDigits_of_ne {t : Table} {a b c d e : Digit} (g : Text) (h : fold t [a, b, c, d] ≠ e) :
    checkDigits t g a b c d e = .rejected (.checksumMismatch g e (fold t [a, b, c, d])) := if_pos h

theorem checkDigits_of_eq {t : Table} {a b c d e : Digit} (g : Text) (h : fold t [a, b, c, d] = e) :
    checkDigits t g a b c d e = .accepted (packWord a b c d) := if_neg (not_not_intro h)

/-! ### The state machine, case by case -/

/-- The terminal phase of the state machine that stands for a result (44_group_decoder.md R85). -/
def GroupResult.phase : GroupResult → DecoderPhase
  | .accepted w => .accepted w
  | .rejected e => .rejected e

theorem GroupResult.result?_phase (r : GroupResult) : r.phase.result? = some r := by
  cases r <;> rfl

/-- `Accepted` and `Rejected` are terminal (44_group_decoder.md R85). -/
theorem decoderNext_phase (α : Alphabet) (t : Table) (g : Text) (r : GroupResult) :
    decoderNext α t g r.phase = r.phase := by
  cases r <;> rfl

theorem decoderNext_parsing_of_length_ne {α : Alphabet} {t : Table} {g : Text} (h : g.length ≠ 5) :
    decoderNext α t g .parsing = .rejected (.invalidLength g g.length) := if_pos h

theorem decoderNext_parsing_of_length_eq {α : Alphabet} {t : Table} {g : Text} (h : g.length = 5) :
    decoderNext α t g .parsing = .symbolCheck := if_neg (not_not_intro h)

theorem decoderNext_parsing_eq_symbolCheck_iff {α : Alphabet} {t : Table} {g : Text} :
    decoderNext α t g .parsing = .symbolCheck ↔ g.length = 5 := by
  by_cases h : g.length = 5
  · simp [decoderNext_parsing_of_length_eq h, h]
  · simp [decoderNext_parsing_of_length_ne h, h]

theorem decoderNext_symbolCheck_of_firstUnresolved {α : Alphabet} {t : Table} {g : Text} {k : Nat} {c : Code}
    (h : firstUnresolved α g k c) : decoderNext α t g .symbolCheck = .rejected (.invalidSymbol g k c) := by
  obtain ⟨hk, hnone, hbefore⟩ := h
  obtain ⟨hlt, hget⟩ := List.getElem?_eq_some_iff.mp hk
  have hfind : (g.zipIdx.find? fun ck => (digitOf α ck.1).isNone) = some (c, k) := by
    refine List.find?_eq_some_iff_getElem.mpr ⟨by simp [hnone], k, by simpa using hlt, by simp [hget], fun j hj => ?_⟩
    simpa using hbefore j hj _ (List.getElem?_eq_getElem (hj.trans hlt))
  simp [decoderNext, hfind]

theorem decoderNext_symbolCheck_of_resolvesTo {α : Alphabet} {t : Table} {g : Text} {ds : List Digit}
    (h : resolvesTo α g ds) : decoderNext α t g .symbolCheck = .checksumCheck ds := by
  have hfind : (g.zipIdx.find? fun ck => (digitOf α ck.1).isNone) = none := by
    refine List.find?_eq_none.mpr fun ck hck => ?_
    simpa [Option.isSome_iff_ne_none] using h.isSome_digitOf (List.fst_mem_of_mem_zipIdx hck)
  simp [decoderNext, hfind, h.filterMap_digitOf]

theorem decoderNext_symbolCheck_eq_checksumCheck_iff {α : Alphabet} {t : Table} {g : Text} {ds : List Digit} :
    decoderNext α t g .symbolCheck = .checksumCheck ds ↔ resolvesTo α g ds := by
  refine ⟨fun h => ?_, decoderNext_symbolCheck_of_resolvesTo⟩
  obtain ⟨ds', hds'⟩ | ⟨k, c, hkc⟩ := resolvesTo_or_firstUnresolved α g
  · rw [decoderNext_symbolCheck_of_resolvesTo hds', DecoderPhase.checksumCheck.injEq] at h
    rwa [← h]
  · rw [decoderNext_symbolCheck_of_firstUnresolved hkc] at h
    exact nomatch h

theorem decoderNext_checksumCheck (α : Alphabet) (t : Table) (g : Text) (a b c d e : Digit) :
    decoderNext α t g (.checksumCheck [a, b, c, d, e]) = (checkDigits t g a b c d e).phase := by
  by_cases h : fold t [a, b, c, d] = e
  · rw [checkDigits_of_eq g h]
    exact if_pos h
  · rw [checkDigits_of_ne g h]
    exact if_neg h

/-! ### The two agree -/

/-- Three transitions decide the group, whatever its text: with a wrong length the first ends the run, at an unresolved
character the second. -/
theorem decoderNext_iterate_three (α : Alphabet) (t : Table) (g : Text) :
    (decoderNext α t g)^[3] .parsing = (decodeGroup α t g).phase := by
  show decoderNext α t g (decoderNext α t g (decoderNext α t g .parsing)) = _
  by_cases hlen : g.length = 5
  case neg =>
    rw [decoderNext_parsing_of_length_ne hlen, decodeGroup_of_length_ne hlen]
    rfl
  case pos =>
    rw [decoderNext_parsing_of_length_eq hlen]
    obtain ⟨ds, hds⟩ | ⟨k, c, hkc⟩ := resolvesTo_or_firstUnresolved α g
    · match ds, hds.length_eq.symm.trans hlen with
      | [a, b, c, d, e], _ =>
        rw [decoderNext_symbolCheck_of_resolvesTo hds, decoderNext_checksumCheck, decodeGroup_of_resolvesTo t hds]
    · rw [decoderNext_symbolCheck_of_firstUnresolved hkc, decodeGroup_of_firstUnresolved t hlen hkc]
      rfl

/-- Settles O48: after three transitions the machine is in the terminal phase of the decoder's result. -/
theorem decoderRefinesItsStateMachine : Obligations.DecoderRefinesItsStateMachine := by
  intro α t g
  refine ⟨?verdict, fun k => ?stays, decoderNext_parsing_eq_symbolCheck_iff,
    fun _ => decoderNext_symbolCheck_eq_checksumCheck_iff⟩
  case verdict => rw [decoderNext_iterate_three, GroupResult.result?_phase]
  case stays =>
    rw [Function.iterate_add_apply, decoderNext_iterate_three]
    exact Function.iterate_fixed (decoderNext_phase α t g _) k

/-! ### The command -/

/-- The fields of a packed word do not overlap: its digits stand one behind the other. -/
theorem packWord_eq_append (a b c d : Digit) : packWord a b c d = (a ++ b ++ c ++ d).setWidth 20 := by
  rw [packWord, BitVec.setWidth_append_append_append_eq_shiftLeft_setWidth_or]

theorem toNat_append_digit {n : Nat} (x : BitVec n) (d : Digit) : (x ++ d).toNat = x.toNat * 32 + d.toNat := by
  rw [BitVec.toNat_append, ← Nat.shiftLeft_add_eq_or_of_lt d.isLt, Nat.shiftLeft_eq]

theorem packWord_eq_ofNat_reassemble (a b c d : Digit) :
    packWord a b c d = BitVec.ofNat 20 (reassemble [a, b, c, d]) := by
  have htoNat : (a ++ b ++ c ++ d).toNat = reassemble [a, b, c, d] := by
    simp only [toNat_append_digit, reassemble, List.foldl_cons, List.foldl_nil, Nat.zero_mul, Nat.zero_add]
  rw [packWord_eq_append, ← htoNat, BitVec.ofNat_toNat]

/-- What `DECODE_GROUP` responds to a group's result (44_group_decoder.md R84). -/
def GroupResult.response : GroupResult → Response
  | .accepted w => Response.ok (.word w)
  | .rejected e => Response.error e.kind.status (.ofGroup e)

theorem exec_decodeGroup_of_ready {s : State} (hr : s.tableReady = true)
    (hf : fits s.params.maxText s.ports.text.length = true) :
    exec .decodeGroup s = .next (answered s (decodeGroup s.alpha s.table s.ports.text).response) := by
  show execDecodeGroup s = _
  rw [execDecodeGroup, whenReady_of_ready hr, withinText_of_fits hf]
  cases decodeGroup s.alpha s.table s.ports.text with
  | accepted w => exact answer_eq s _
  | rejected e => exact raise_eq s _ _

/-- Settles O46: the command responds with the decoder's result, which is known in each of the four cases. -/
theorem decodeGroupAnswersWordOrFirstError : Obligations.DecodeGroupAnswersWordOrFirstError := by
  refine ⟨fun s hr hf => ?answers, fun s hr => exec_of_held rfl hr, by decide +kernel, by decide +kernel⟩
  rw [exec_decodeGroup_of_ready hr hf]
  refine ⟨fun hlen => ?length, fun hlen k c hkc => ?symbol, fun a b c d e hds hne => ?mismatch,
    fun a b c d e hds heq => ?word⟩
  case length =>
    rw [decodeGroup_of_length_ne hlen]
    rfl
  case symbol =>
    rw [decodeGroup_of_firstUnresolved _ hlen hkc]
    rfl
  case mismatch =>
    rw [decodeGroup_of_resolvesTo _ hds, checkDigits_of_ne _ hne]
    rfl
  case word =>
    rw [decodeGroup_of_resolvesTo _ hds, checkDigits_of_eq _ heq, packWord_eq_ofNat_reassemble]
    rfl

end Sys2Proof.Machine
end

section
/-!
The key layer (45_key.md) as a text with separators: a key is the join of its groups (R89), and splitting a text at each
separator undoes the join of separator-free fields (R90). The scan is the library's `List.splitOn`, so that decoding a
joined key decodes its fields one by one (R91), and a changed field changes one verdict (R92).
-/

namespace Sys2Proof.Machine

/-! ### Encoding a key -/

/-- The join of the spec's pseudocode, one separator and one group appended at a time (45_key.md R89). -/
theorem joinGroups_cons_eq_foldl (g : Text) (gs : List Text) :
    joinGroups (g :: gs) = gs.foldl (fun out h => out ++ [Config.separator] ++ h) g := by
  induction gs generalizing g with
  | nil => exact List.intercalate_singleton
  | cons h hs ih =>
    have hjoin : joinGroups (g :: h :: hs) = joinGroups ((g ++ [Config.separator] ++ h) :: hs) := by
      cases hs <;> simp [joinGroups]
    rw [hjoin, ih, List.foldl_cons]

theorem encodeKey_of_splitWords_eq_cons {n : Nat} {w : Word} {ws : List Word} (h : splitWords n = w :: ws)
    (α : Alphabet) (t : Table) :
    encodeKey α t n = ws.foldl (fun out v => out ++ [Config.separator] ++ encodeWord α t v) (encodeWord α t w) := by
  rw [encodeKey, h, List.map_cons, joinGroups_cons_eq_foldl, List.foldl_map]

/-- 45_key.md R89: `"22222"`. -/
theorem encodeKey_romTable_zero {α : Alphabet} (hα : alphabetOk α = true) :
    encodeKey α Config.romTable 0 = List.replicate 5 0x32 := by
  rw [encodeKey_of_splitWords_eq_cons (splitWords_of_div_eq_zero (Nat.zero_div _)), List.foldl_nil]
  exact encodeWord_romTable_zero hα

theorem exec_encodeKey_of_ready {s : State} (hr : s.tableReady = true) :
    exec .encodeKey s = withinWords s (splitWords s.ports.nat).length
      (answer s (.text (encodeKey s.alpha s.table s.ports.nat))) :=
  whenReady_of_ready hr _

/-- Settles O52: the hold, then the capacity, then the join; under the invariant the one word of 0 has the group of
five `'2'`. -/
theorem encodeKeyAnswersJoinedGroups : Obligations.EncodeKeyAnswersJoinedGroups := by
  refine ⟨fun s hr hf => ⟨encodeKey s.alpha s.table s.ports.nat, ?answers, fun w ws hws => ?joined, fun hs hn => ?zero⟩,
    fun s hr hf => ?refused, fun s hr => exec_of_held rfl hr⟩
  case answers => exact (exec_encodeKey_of_ready hr).trans (withinWords_of_fits hf _)
  case joined => exact encodeKey_of_splitWords_eq_cons hws _ _
  case zero =>
    rw [hn, hs.tableConstant hr, encodeKey_romTable_zero hs.alphabet]
    rfl
  case refused => exact (exec_encodeKey_of_ready hr).trans (withinWords_of_not_fits hf _)

/-! ### Splitting a key text -/

/-- The model's scan keeps its open field in order, the library's keeps it reversed. -/
theorem splitFields_reverse (acc t : Text) :
    splitFields acc.reverse t = List.splitOnPPrepend (· == Config.separator) t acc := by
  induction t generalizing acc with
  | nil => rfl
  | cons c cs ih =>
    rw [splitFields, List.splitOnPPrepend_cons_eq_if, ← List.splitOnPPrepend_nil_right, ← ih [], ← ih (c :: acc)]
    simp

theorem splitKey_eq_splitOn (t : Text) : splitKey t = t.splitOn Config.separator := by
  rw [List.splitOn_eq_splitOnP, List.splitOnP_eq_splitOnPPrepend]
  exact splitFields_reverse [] t

/-- Nothing is trimmed and empty fields stay, so that nothing is lost (45_key.md R90). -/
theorem joinGroups_splitKey (t : Text) : joinGroups (splitKey t) = t := by
  rw [joinGroups, splitKey_eq_splitOn, List.intercalate_splitOn]

/-- Separator-free fields are the only ones whose join splits to them; no field at all joins to the empty text, which
splits to one empty field. -/
theorem splitKey_joinGroups {fs : List Text} (hne : fs ≠ []) (hfs : ∀ f ∈ fs, Config.separator ∉ f) :
    splitKey (joinGroups fs) = fs := by
  rw [joinGroups, splitKey_eq_splitOn, List.splitOn_intercalate _ hfs hne]

theorem separator_not_mem_of_mem_splitFields {cur t f : Text} (hcur : Config.separator ∉ cur)
    (hf : f ∈ splitFields cur t) : Config.separator ∉ f := by
  induction t generalizing cur with
  | nil =>
    obtain rfl := List.mem_singleton.mp hf
    exact hcur
  | cons c cs ih =>
    rw [splitFields] at hf
    split at hf
    next =>
      obtain rfl | hf := List.mem_cons.mp hf
      · exact hcur
      · exact ih List.not_mem_nil hf
    next hc => exact ih (by simp [hcur, Ne.symm hc]) hf

theorem splitFields_length (cur t : Text) : (splitFields cur t).length = t.count Config.separator + 1 := by
  induction t generalizing cur with
  | nil => rfl
  | cons c cs ih =>
    rw [splitFields, List.count_cons]
    split
    next hc => simp [hc, ih]
    next hc => simp [hc, ih]

/-- Settles O54: joining undoes splitting, and the scan closes a field at a separator only. -/
theorem splitKeyCutsAtEverySeparator : Obligations.SplitKeyCutsAtEverySeparator := fun t =>
  ⟨joinGroups_splitKey t, fun _ hf => separator_not_mem_of_mem_splitFields List.not_mem_nil hf, splitFields_length [] t⟩

/-! ### Decoding a key -/

theorem decodeKey_length (α : Alphabet) (tb : Table) (t : Text) :
    (decodeKey α tb t).length = t.count Config.separator + 1 := by
  rw [decodeKey, List.length_map, splitKey, splitFields_length]

theorem decodeKey_joinGroups {fs : List Text} (hne : fs ≠ []) (hfs : ∀ f ∈ fs, Config.separator ∉ f) (α : Alphabet)
    (tb : Table) : decodeKey α tb (joinGroups fs) = fs.map (decodeGroup α tb) := by
  rw [decodeKey, splitKey_joinGroups hne hfs]

/-- Settles O55: the hold, then the capacity, then the verdicts of the fields, which the text determines. -/
theorem decodeKeyAnswersEveryField : Obligations.DecodeKeyAnswersEveryField := by
  refine ⟨fun s hr hf => ⟨decodeKey s.alpha s.table s.ports.text, ?answers, decodeKey_length _ _ _,
    fun fs hne hfs htext => ?verdicts⟩, fun s hr => exec_of_held rfl hr⟩
  case answers => exact (whenReady_of_ready hr _).trans (withinText_of_fits hf _)
  case verdicts =>
    rw [← htext]
    exact decodeKey_joinGroups hne hfs _ _

/-- Settles O56: both keys decode field by field, and replacing a field before decoding replaces its verdict after. -/
theorem oneFieldAffectsOnlyItsOwnResult : Obligations.OneFieldAffectsOnlyItsOwnResult := by
  intro α t fs j f hj hfs hf
  have hne : fs ≠ [] := List.ne_nil_of_length_pos (Nat.zero_lt_of_lt hj)
  have hset : ∀ g ∈ fs.set j f, Config.separator ∉ g := fun g hg =>
    (List.mem_or_eq_of_mem_set hg).elim (hfs g) fun h => h ▸ hf
  calc decodeKey α t (joinGroups (fs.set j f))
      = (fs.set j f).map (decodeGroup α t) := decodeKey_joinGroups (by simpa using hne) hset α t
    _ = (fs.map (decodeGroup α t)).set j (decodeGroup α t f) := List.map_set
    _ = (decodeKey α t (joinGroups fs)).set j (decodeGroup α t f) := by rw [decodeKey_joinGroups hne hfs]

end Sys2Proof.Machine
end

section
/-!
Rendering decoded results (45_key.md R93, R94): every result takes five characters, so the `j`-th one stands at `5 * j`,
and the five characters of a word are its lowercase hexadecimal digits.
-/

namespace Sys2Proof.Machine

theorem render_cons (r : GroupResult) (rs : List GroupResult) : render (r :: rs) = renderOne r ++ render rs :=
  List.flatMap_cons

theorem render_length (rs : List GroupResult) : (render rs).length = 5 * rs.length := by
  induction rs with
  | nil => rfl
  | cons r rs ih =>
    rw [render_cons, List.length_append, renderOne_length, ih, List.length_cons, Nat.mul_succ, Nat.add_comm]

theorem drop_render_cons (r : GroupResult) (rs : List GroupResult) (j : Nat) :
    (render (r :: rs)).drop (5 * (j + 1)) = (render rs).drop (5 * j) := by
  have hlen : 5 * (j + 1) = (renderOne r).length + 5 * j := by rw [renderOne_length, Nat.mul_succ, Nat.add_comm]
  rw [render_cons, hlen, List.drop_length_add_append]

/-- The characters at a result's place are that result's own. -/
theorem take_drop_render {rs : List GroupResult} {j : Nat} {r : GroupResult} (h : rs[j]? = some r) :
    ((render rs).drop (5 * j)).take 5 = renderOne r := by
  induction rs generalizing j with
  | nil => simp at h
  | cons x xs ih =>
    cases j with
    | zero =>
      obtain rfl : x = r := by simpa using h
      exact List.take_left' (renderOne_length x)
    | succ j =>
      rw [drop_render_cons]
      exact ih (by simpa using h)

/-- `hex5` is the five-digit case of the positional rendering: each nibble is a quotient by a power of 16, modulo 16. -/
theorem hex5_eq_hexPad (w : Word) : hex5 w = hexPad 5 w.toNat := by
  simp [hex5, hexPad, BitVec.extractLsb', Nat.shiftRight_eq_div_pow, Nat.div_div_eq_div_mul]

/-- Settles O57: the capacity, the five characters at each place, and the sixteen digit characters. -/
theorem renderDecodedAnswersFiveCharactersEach : Obligations.RenderDecodedAnswersFiveCharactersEach := by
  refine ⟨fun s hf => ⟨render s.ports.results, ?answers, render_length _, fun j w hw => ?word, fun j e he => ?error⟩,
    fun s hf => ?refused, by decide +kernel⟩
  case answers => exact withinText_of_fits hf _
  case word => rw [take_drop_render hw, renderOne, hex5_eq_hexPad]
  case error =>
    rw [take_drop_render he]
    rfl
  case refused => exact withinText_of_not_fits hf _

end Sys2Proof.Machine
end

section
/-!
Errors (60_exceptions.md): which operation gives which status (R97), and what the payload of an error says of the operand
that caused it (R98 to R100). Both are read off the one inversion of a command's response: a result is returned with
`OK`, and of the operations only `DIGIT_OF`, `DECODE_GROUP` and the reserved ones raise an error.
-/

namespace Sys2Proof.Machine

/-- `exec_response` for a command that answers a next state. -/
theorem exec_next_response {i : Instr} {s t : State} {r : Response} (h : exec i s = .next t)
    (hr : t.response = some r) :
    (∃ v, ReturnsResult s i v ∧ r = Response.ok v) ∨
    (∃ st info, RaisesError s i st info ∧ r = Response.error st info) :=
  exec_response (by rw [h, responseOf_next, hr])

/-- A response whose status is not `OK` reports one of its operation's errors. -/
theorem exec_next_error {i : Instr} {s t : State} {r : Response} (h : exec i s = .next t)
    (hr : t.response = some r) (hne : r.status ≠ .ok) :
    ∃ st info, RaisesError s i st info ∧ r = Response.error st info := by
  obtain ⟨v, -, rfl⟩ | herr := exec_next_response h hr
  · exact absurd rfl hne
  · exact herr

/-! ### Statuses -/

theorem Status.code_injective : Function.Injective Status.code := by
  intro a b
  cases a <;> cases b <;> decide

/-- The codes `101` to `111` are reserved (60_exceptions.md R97). -/
theorem Status.code_lt (st : Status) : st.code < 0b101 := by
  cases st <;> decide

theorem ErrKind.status_ne_illegalOp (k : ErrKind) : k.status ≠ .illegalOp := by
  cases k <;> decide

theorem ReturnsResult.isReserved_eq_false {s : State} {i : Instr} {v : Result} (h : ReturnsResult s i v) :
    isReserved i = false := by
  cases h <;> rfl

/-- Settles O21: an operation that returns a result is not reserved and gives `OK`; the three kinds of operation that
raise an error are told apart by its status. -/
theorem statusesComeFromTheirOperations : Obligations.StatusesComeFromTheirOperations := by
  refine ⟨rfl, rfl, rfl, rfl, rfl, Status.code_injective, fun i s t r hexec hr => ⟨r.status.code_lt, ?_⟩⟩
  obtain ⟨v, hv, rfl⟩ | ⟨st, info, he, rfl⟩ := exec_next_response hexec hr
  case inl => exact ⟨nofun, nofun, nofun, iff_of_false nofun (by simp [hv.isReserved_eq_false])⟩
  case inr =>
    cases he with
    | digitOf _ => exact ⟨nofun, fun _ => .inl rfl, nofun, iff_of_false nofun (by decide)⟩
    | decodeGroup _ =>
      exact ⟨fun _ => rfl, fun _ => .inr rfl, fun _ => rfl, iff_of_false (ErrKind.status_ne_illegalOp _) (by decide)⟩
    | reserved hres => exact ⟨nofun, nofun, nofun, iff_of_true rfl hres⟩

/-! ### Payloads -/

/-- A first unresolved character stands within the text. -/
theorem firstUnresolved.lt_length {α : Alphabet} {g : Text} {k : Nat} {c : Code} (h : firstUnresolved α g k c) :
    k < g.length := by
  obtain ⟨hk, -, -⟩ := h
  obtain ⟨hlt, -⟩ := List.getElem?_eq_some_iff.mp hk
  exact hlt

theorem payloadFits_of_checkDigits_eq_rejected {α : Alphabet} {t : Table} {g : Text} {a b c d e : Digit}
    {err : GroupError} (hds : resolvesTo α g [a, b, c, d, e]) (h : checkDigits t g a b c d e = .rejected err) :
    payloadFits α t g err := by
  by_cases hfold : fold t [a, b, c, d] = e
  · rw [checkDigits_of_eq g hfold] at h
    exact nomatch h
  · rw [checkDigits_of_ne g hfold] at h
    obtain rfl := GroupResult.rejected.inj h
    exact ⟨rfl, Ne.symm hfold, a, b, c, d, hds, rfl⟩

/-- The error of a rejected group describes the group, in each of the decoder's three ways to reject it. -/
theorem payloadFits_of_decodeGroup_eq_rejected {α : Alphabet} {t : Table} {g : Text} {err : GroupError}
    (h : decodeGroup α t g = .rejected err) : payloadFits α t g err := by
  by_cases hlen : g.length = 5
  case neg =>
    rw [decodeGroup_of_length_ne hlen] at h
    obtain rfl := GroupResult.rejected.inj h
    exact ⟨rfl, rfl, hlen⟩
  case pos =>
    obtain ⟨ds, hds⟩ | ⟨k, c, hkc⟩ := resolvesTo_or_firstUnresolved α g
    · match ds, hds.length_eq.symm.trans hlen with
      | [_, _, _, _, _], _ =>
        exact payloadFits_of_checkDigits_eq_rejected hds (decodeGroup_of_resolvesTo t hds ▸ h)
    · rw [decodeGroup_of_firstUnresolved t hlen hkc] at h
      obtain rfl := GroupResult.rejected.inj h
      exact ⟨rfl, hlen, hlen ▸ hkc.lt_length, hkc⟩

/-- The results of a key stand in the order of its fields. -/
theorem decodeKey_getElem?_eq_some {α : Alphabet} {tb : Table} {t : Text} {j : Nat} {r : GroupResult}
    (h : (decodeKey α tb t)[j]? = some r) : ∃ g, (splitKey t)[j]? = some g ∧ decodeGroup α tb g = r := by
  rwa [decodeKey, List.getElem?_map, Option.map_eq_some_iff] at h

/-- What `DECODE_KEY` responds with, if with results, is the key's decoding. -/
theorem exec_decodeKey_results {s t : State} {rs : List GroupResult} (h : exec .decodeKey s = .next t)
    (hr : t.response = some (Response.ok (.results rs))) : rs = decodeKey s.alpha s.table s.ports.text := by
  obtain ⟨v, hv, hok⟩ | ⟨st, info, -, herr⟩ := exec_next_response h hr
  · cases hv
    simpa [Response.ok] using hok
  · simp [Response.ok, Response.error] at herr

/-- Settles O47: the two commands that raise an error of their own raise what the decoder and the reverse lookup found,
and `DECODE_KEY` keeps the decoder's error for every field it rejects. -/
theorem errorPayloadsDescribeTheirCause : Obligations.ErrorPayloadsDescribeTheirCause := by
  refine ⟨fun s t r hexec hr hne => ?group, fun s t rs hexec hr j e hj => ?key, fun s t r hexec hr hne => ?digit⟩
  case group =>
    obtain ⟨st, info, he, rfl⟩ := exec_next_error hexec hr hne
    cases he with
    | decodeGroup hg => exact ⟨_, rfl, payloadFits_of_decodeGroup_eq_rejected hg⟩
    | reserved hres => exact absurd hres (by decide)
  case key =>
    rw [exec_decodeKey_results hexec hr] at hj
    obtain ⟨g, hg, he⟩ := decodeKey_getElem?_eq_some hj
    exact ⟨g, hg, payloadFits_of_decodeGroup_eq_rejected he⟩
  case digit =>
    obtain ⟨st, info, he, rfl⟩ := exec_next_error hexec hr hne
    cases he with
    | digitOf hd => exact ⟨rfl, hd⟩
    | reserved hres => exact absurd hres (by decide)

end Sys2Proof.Machine
end

section
/-!
The table-ready flag and the hold (70_reset_and_hazards.md R120, R122). Both are read off what a command and a step can
do: no command writes `TABLE_READY` and the build agent only sets it, and a command that is neither held nor beyond
capacity answers.
-/

namespace Sys2Proof.Machine

/-! ### What the build agent leaves unchanged -/

/-- The frame of the build agent: it writes `TABLE`, `TABLE_READY` and its own counter. -/
theorem tickBuild_frame (s : State) :
    tickBuild s = { s with
      table      := (tickBuild s).table
      tableReady := (tickBuild s).tableReady
      buildDelay := (tickBuild s).buildDelay } := by
  obtain ⟨-, h⟩ | ⟨-, -, h⟩ | ⟨n, -, -, h⟩ := tickBuild_cases s
  · rw [h]
  · rw [h, finishBuild, writeTable]
  · rw [h]

@[simp] theorem tickBuild_port (s : State) : (tickBuild s).port = s.port := by
  rw [tickBuild_frame]

@[simp] theorem tickBuild_ports (s : State) : (tickBuild s).ports = s.ports := by
  rw [tickBuild_frame]

@[simp] theorem tickBuild_response (s : State) : (tickBuild s).response = s.response := by
  rw [tickBuild_frame]

theorem tickBuild_keeps_ready {s : State} (hr : s.tableReady = true) : (tickBuild s).tableReady = true := by
  rw [tickBuild_of_ready hr, hr]

/-! ### `TABLE_READY` -/

/-- No command writes `TABLE_READY`, in either direction. -/
theorem exec_tableReady_eq {i : Instr} {s t : State} (h : exec i s = .next t) : t.tableReady = s.tableReady := by
  obtain ⟨-, -, rfl⟩ | ⟨r, rfl⟩ | ⟨-, -, rfl⟩ := exec_cases h
  · exact idle_tableReady s
  · exact answered_tableReady s r
  · rw [answered_tableReady, writeTable_tableReady]

theorem step_keeps_ready {s t : State} (hr : s.tableReady = true) (hn : ∀ rest, s.inputs ≠ .reset :: rest)
    (h : step s = .next t) : t.tableReady = true := by
  obtain ⟨rest, hreset, -⟩ | ⟨op, p, rest, -, -, rfl⟩ | ⟨op, rest, u, -, -, hu, rfl⟩ | ⟨rest, -, -, rfl⟩ := step_cases h
  case inl => exact absurd hreset (hn rest)
  case inr.inl => exact tickBuild_keeps_ready hr
  case inr.inr.inl => exact tickBuild_keeps_ready ((exec_tableReady_eq hu).trans hr)
  case inr.inr.inr => exact tickBuild_keeps_ready hr

/-- Settles O12: of all a step can do, only a reset clears the flag. -/
theorem tableReadyStaysUntilReset : Obligations.TableReadyStaysUntilReset :=
  ⟨fun _ _ => step_keeps_ready, fun _ _ _ hr h => (exec_tableReady_eq h).trans hr⟩

/-! ### Held and answered commands -/

theorem needsTable_iff {i : Instr} :
    needsTable i = true ↔
      i ∈ [Instr.tableBuild, .tableRead, .crc5Fold, .encodeWord, .decodeGroup, .encodeKey, .decodeKey] := by
  cases i <;> decide

/-- A step in which the command on the port is held is an idle step, the build agent's part apart. -/
theorem step_of_held {s t : State} {op : Selector} (hp : s.port = some op)
    (hi : needsTable (decodeSelector op) = true) (hr : s.tableReady = false) (hn : ∀ rest, s.inputs ≠ .reset :: rest)
    (h : step s = .next t) : ∃ rest, t = tickBuild (idle { s with inputs := rest }) := by
  obtain ⟨rest, hreset, -⟩ | ⟨_, _, _, -, hidle, -⟩ | ⟨op', rest, u, hp', -, hu, rfl⟩ | ⟨_, hidle, -, -⟩ :=
    step_cases h
  case inl => exact absurd hreset (hn rest)
  case inr.inl => exact nomatch hp.symm.trans hidle
  case inr.inr.inl =>
    obtain rfl : op = op' := Option.some.inj (hp.symm.trans hp')
    have hheld : exec (decodeSelector op) { s with inputs := rest } = .next (idle { s with inputs := rest }) :=
      exec_of_held hi hr
    exact ⟨rest, congrArg tickBuild (Host.Outcome.next.inj (hu.symm.trans hheld))⟩
  case inr.inr.inr => exact nomatch hp.symm.trans hidle

/-- A command that is not held and whose operand is within capacity answers; what it answers from is `s` itself but for
the table that `TABLE_BUILD` writes. -/
theorem exec_answers {i : Instr} {s : State} (hr : needsTable i = true → s.tableReady = true)
    (hc : withinCapacity i s = true) : ∃ u r, exec i s = .next (answered u r) := by
  cases i
  case crc5Bitwise | symbolOf => exact ⟨s, _, answer_eq s _⟩
  case reserved0000 | reserved1110 | reserved1111 => exact ⟨s, _, exec_of_isReserved rfl s⟩
  case digitOf =>
    cases hd : digitOf s.alpha s.ports.char with
    | some d => exact ⟨s, _, exec_digitOf_of_some hd⟩
    | none => exact ⟨s, _, exec_digitOf_of_none hd⟩
  case splitWords | joinWords => exact ⟨s, _, withinWords_of_fits hc _⟩
  case renderDecoded => exact ⟨s, _, withinText_of_fits hc _⟩
  case tableBuild => exact ⟨writeTable s builtTable, _, whenReady_of_ready (hr rfl) _⟩
  case tableRead => exact ⟨s, _, exec_tableRead_of_ready (hr rfl)⟩
  case encodeWord => exact ⟨s, _, exec_encodeWord_of_ready (hr rfl)⟩
  case decodeGroup => exact ⟨s, _, exec_decodeGroup_of_ready (hr rfl) hc⟩
  case encodeKey => exact ⟨s, _, (exec_encodeKey_of_ready (hr rfl)).trans (withinWords_of_fits hc _)⟩
  case crc5Fold | decodeKey => exact ⟨s, _, (whenReady_of_ready (hr rfl) _).trans (withinText_of_fits hc _)⟩

theorem step_of_port_of_quiet {s : State} {op : Selector} (hp : s.port = some op) (hq : s.inputs = []) :
    step s = mapNext tickBuild (exec (decodeSelector op) s) := by
  simp only [step, hostStep, hq, blockStep, portStep, hp]

/-- Settles O14: a table operation is held exactly while the table is not ready, and a command that is not held answers,
whether run by a step or by itself. -/
theorem tableOperationsAreHeldUntilReady : Obligations.TableOperationsAreHeldUntilReady := by
  refine ⟨fun i => needsTable_iff, fun i s => exec_of_held, fun s t op hp hi hr hn h => ?held,
    fun s op hp hr hq hc => ?accepted, fun i s hs hrom hc => ?rom⟩
  case held =>
    obtain ⟨rest, rfl⟩ := step_of_held hp hi hr hn h
    exact ⟨(tickBuild_port _).trans hp, tickBuild_ports _, tickBuild_response _⟩
  case accepted =>
    obtain ⟨u, r, hexec⟩ := exec_answers (fun _ => hr) hc
    refine ⟨tickBuild (answered u r), ?_, by simp, by simp⟩
    rw [step_of_port_of_quiet hp hq, hexec, mapNext_next]
  case rom =>
    obtain ⟨u, r, hexec⟩ := exec_answers (fun _ => hs.romReady hrom) hc
    exact ⟨answered u r, hexec, rfl, rfl⟩

end Sys2Proof.Machine
end

section
/-!
The decoder and the encoder (30_encoding.md R47 to R49, log 8). Selectors and operations correspond one to one, a byte is
a command exactly when it is some operation's byte, and a stream is decoded byte by byte.
-/

namespace Sys2Proof.Machine

/-! ### One command -/

/-- The opcode map's facts for each operation, in one place. -/
theorem encoding_statement : (i : Instr) → Laws.Encoding.Statement i
  | .reserved0000  => Laws.Encoding.reserved0000
  | .crc5Bitwise   => Laws.Encoding.crc5Bitwise
  | .tableBuild    => Laws.Encoding.tableBuild
  | .tableRead     => Laws.Encoding.tableRead
  | .crc5Fold      => Laws.Encoding.crc5Fold
  | .symbolOf      => Laws.Encoding.symbolOf
  | .digitOf       => Laws.Encoding.digitOf
  | .splitWords    => Laws.Encoding.splitWords
  | .joinWords     => Laws.Encoding.joinWords
  | .encodeWord    => Laws.Encoding.encodeWord
  | .decodeGroup   => Laws.Encoding.decodeGroup
  | .encodeKey     => Laws.Encoding.encodeKey
  | .decodeKey     => Laws.Encoding.decodeKey
  | .renderDecoded => Laws.Encoding.renderDecoded
  | .reserved1110  => Laws.Encoding.reserved1110
  | .reserved1111  => Laws.Encoding.reserved1111

theorem decodeSelector_encode (i : Instr) : decodeSelector (encode i) = i := by
  obtain ⟨-, hdecode, -⟩ := encoding_statement i
  exact hdecode

theorem decodeTableWord_encode (i : Instr) : decodeTableWord 8 (encode i).toNat = some i := by
  obtain ⟨-, -, htable⟩ := encoding_statement i
  exact htable

theorem encode_decodeSelector (op : Selector) : encode (decodeSelector op) = op := by
  revert op
  decide

theorem decodeWord_of_lt {w : Nat} (h : w < 16) : decodeWord w = .ok (decodeSelector (BitVec.ofNat 4 w)) :=
  if_pos (decide_eq_true h)

theorem decodeWord_of_ge {w : Nat} (h : 16 ≤ w) : decodeWord w = .error .selectorTooWide :=
  if_neg (by simpa [commandWordFits] using h)

theorem toNat_encodeByte (i : Instr) : (encodeByte i).toNat = (encode i).toNat :=
  BitVec.toNat_setWidth_of_le (by decide)

/-- A byte is a command exactly when it carries a selector and nothing above it. -/
theorem decodeWord_toNat_eq_ok_iff {b : BitVec 8} {i : Instr} : decodeWord b.toNat = .ok i ↔ b = encodeByte i := by
  refine ⟨fun h => ?byte, fun h => ?command⟩
  case byte =>
    by_cases hb : b.toNat < 16
    · rw [decodeWord_of_lt hb, Except.ok.injEq] at h
      apply BitVec.eq_of_toNat_eq
      rw [← h, toNat_encodeByte, encode_decodeSelector, BitVec.toNat_ofNat, Nat.mod_eq_of_lt hb]
    · rw [decodeWord_of_ge (Nat.le_of_not_lt hb)] at h
      exact nomatch h
  case command =>
    rw [h, toNat_encodeByte, decodeWord_of_lt (encode i).isLt, BitVec.ofNat_toNat, BitVec.setWidth_eq,
      decodeSelector_encode]

/-- Settles O1: the rows of the opcode map one by one. -/
theorem selectorsDecodeByOpcodeMap : Obligations.SelectorsDecodeByOpcodeMap :=
  ⟨decodeSelector_encode .reserved0000, decodeSelector_encode .crc5Bitwise, decodeSelector_encode .tableBuild,
    decodeSelector_encode .tableRead, decodeSelector_encode .crc5Fold, decodeSelector_encode .symbolOf,
    decodeSelector_encode .digitOf, decodeSelector_encode .splitWords, decodeSelector_encode .joinWords,
    decodeSelector_encode .encodeWord, decodeSelector_encode .decodeGroup, decodeSelector_encode .encodeKey,
    decodeSelector_encode .decodeKey, decodeSelector_encode .renderDecoded, decodeSelector_encode .reserved1110,
    decodeSelector_encode .reserved1111, decodeWord_of_ge (by decide)⟩

/-! ### A stream of commands -/

theorem decodeStream_cons_eq_ok_iff {b : BitVec 8} {bs : List (BitVec 8)} {is : List Instr} :
    decodeStream (b :: bs) = .ok is ↔
      ∃ i js, decodeWord b.toNat = .ok i ∧ decodeStream bs = .ok js ∧ is = i :: js := by
  rw [decodeStream]
  cases decodeWord b.toNat with
  | error e => simp
  | ok i =>
    cases decodeStream bs with
    | error e => simp
    | ok js => simp [eq_comm]

/-- Settles O2, by induction on the bytes: the first byte is the first instruction's, and no other byte decodes to it. -/
theorem decodedStreamIsExactlyItsEncoding : Obligations.DecodedStreamIsExactlyItsEncoding := by
  intro is bs
  induction bs generalizing is with
  | nil =>
    cases is with
    | nil => exact iff_of_true rfl rfl
    | cons i is => exact iff_of_false nofun nofun
  | cons b bs ih =>
    simp only [decodeStream_cons_eq_ok_iff, decodeWord_toNat_eq_ok_iff, ih]
    refine ⟨fun ⟨i, js, hb, hbs, his⟩ => ?encoded, fun h => ?decoded⟩
    case encoded =>
      rw [his, hb, hbs]
      rfl
    case decoded =>
      cases is with
      | nil => exact nomatch h
      | cons i js =>
        obtain ⟨hb, hbs⟩ := List.cons.inj h
        exact ⟨i, js, hb, hbs, rfl⟩

end Sys2Proof.Machine
end

section
/-!
The invariant of the block (10_state.md R15, R20, R22, R28; 41_alphabet.md R70) and what follows from it for commands: the
table that `TABLE_BUILD` writes is the one a good ready block holds already, so a command changes the port and the
response only, and a step without reset leaves a ready table as it was.
-/

namespace Sys2Proof.Machine

/-! ### Commands over a constant table -/

/-- What a command can do where a ready table is the printed one: it is held, or it answers and writes nothing else. -/
theorem exec_cases_of_constant {i : Instr} {s t : State} (ht : s.tableReady = true → s.table = Config.romTable)
    (h : exec i s = .next t) :
    (needsTable i = true ∧ s.tableReady = false ∧ t = idle s) ∨ (∃ r, t = answered s r) := by
  obtain hheld | hans | ⟨-, hr, rfl⟩ := exec_cases h
  · exact .inl hheld
  · exact .inr hans
  · have hsame : writeTable s builtTable = s := by rw [builtTable_eq, ← ht hr, writeTable]
    exact .inr ⟨_, by rw [hsame]⟩

/-- Settles O16: the two cases of a command over the constant table. -/
theorem commandsChangeOnlyPortAndResponse : Obligations.CommandsChangeOnlyPortAndResponse := by
  intro i s t hs h
  obtain ⟨hi, hr, rfl⟩ | ⟨r, rfl⟩ := exec_cases_of_constant hs.tableConstant h
  case inl => exact ⟨rfl, .inr ⟨rfl, rfl, hi, hr⟩⟩
  case inr => exact ⟨rfl, .inl ⟨rfl, rfl⟩⟩

/-! ### The invariant under each update of the state -/

theorem State.Inv.answered {s : State} (hs : s.Inv) (r : Response) : (answered s r).Inv :=
  { tableConstant := hs.tableConstant, romReady := hs.romReady, alphabet := hs.alphabet, oneResponse := fun _ => rfl }

theorem State.Inv.idle {s : State} (hs : s.Inv) : (idle s).Inv :=
  { tableConstant := hs.tableConstant, romReady := hs.romReady, alphabet := hs.alphabet, oneResponse := nofun }

theorem State.Inv.present {s : State} (hs : s.Inv) (op : Selector) (p : OperandPorts) : (present op p s).Inv :=
  { tableConstant := hs.tableConstant, romReady := hs.romReady, alphabet := hs.alphabet, oneResponse := nofun }

theorem State.Inv.setInputs {s : State} (hs : s.Inv) (l : List HostInput) : ({ s with inputs := l } : State).Inv :=
  { tableConstant := hs.tableConstant, romReady := hs.romReady, alphabet := hs.alphabet, oneResponse := hs.oneResponse }

/-- The build agent completes only with the printed table. -/
theorem State.Inv.tickBuild {s : State} (hs : s.Inv) : (tickBuild s).Inv := by
  obtain ⟨-, h⟩ | ⟨-, -, h⟩ | ⟨n, -, -, h⟩ := tickBuild_cases s
  · rwa [h]
  · rw [h]
    exact { tableConstant := fun _ => builtTable_eq, romReady := fun _ => rfl, alphabet := hs.alphabet,
            oneResponse := hs.oneResponse }
  · rw [h]
    exact { tableConstant := hs.tableConstant, romReady := hs.romReady, alphabet := hs.alphabet,
            oneResponse := hs.oneResponse }

/-- A reset leaves the table ready with `ROM` only, and then with the printed entries. -/
theorem State.Inv.assertReset {s : State} (hs : s.Inv) : (assertReset s).Inv :=
  { tableConstant := fun hr => by
      rw [assertReset_table, if_pos (of_decide_eq_true hr)]
    romReady := fun hrom => decide_eq_true hrom
    alphabet := hs.alphabet
    oneResponse := nofun }

theorem State.Inv.exec {i : Instr} {s t : State} (hs : s.Inv) (h : exec i s = .next t) : t.Inv := by
  obtain ⟨-, -, rfl⟩ | ⟨r, rfl⟩ := exec_cases_of_constant hs.tableConstant h
  · exact hs.idle
  · exact hs.answered r

/-- Settles O10: each of the four things a step can do keeps the invariant. -/
theorem everyStepKeepsInvariant : Obligations.EveryStepKeepsInvariant := by
  intro s t hs h
  obtain ⟨rest, -, rfl⟩ | ⟨op, p, rest, -, -, rfl⟩ | ⟨op, rest, u, -, -, hu, rfl⟩ | ⟨rest, -, -, rfl⟩ :=
    step_cases h
  · exact (hs.setInputs rest).assertReset
  · exact ((hs.setInputs rest).present op p).tickBuild
  · exact ((hs.setInputs rest).exec hu).tickBuild
  · exact (hs.setInputs rest).idle.tickBuild

theorem resetWith_inv (p : Params) {α : Alphabet} (junk : Table) (n : Nat) (hα : alphabetOk α = true) :
    (State.resetWith p α junk n).Inv :=
  { tableConstant := fun hr => by
      rw [resetWith_table, if_pos (of_decide_eq_true hr)]
    romReady := fun hrom => decide_eq_true hrom
    alphabet := hα
    oneResponse := nofun }

/-- Settles O9: of a reset block only one with `ROM` is ready, and it holds the printed table. -/
theorem invariantHoldsAtReset : Obligations.InvariantHoldsAtReset :=
  ⟨fun p _ junk n => resetWith_inv p junk n, test_alphabet_default_ok, resetWith_inv _ _ _ test_alphabet_default_ok⟩

/-- Settles O8: the reset values field by field, and the printed table's entries where the block has `ROM`. -/
theorem powerOnResetValues : Obligations.PowerOnResetValues := by
  refine ⟨fun p α junk n => ⟨rfl, rfl, rfl, fun _ => rfl, fun hbuilt => ?built, fun hrom => ?rom⟩,
    _, _, _, _, rfl, rfl, test_alphabet_default_ok⟩
  case built => simp [hbuilt]
  case rom => simp [hrom, readTable_romTable]

/-! ### The table of a ready block -/

theorem exec_table_eq {i : Instr} {s t : State} (ht : s.tableReady = true → s.table = Config.romTable)
    (h : exec i s = .next t) : t.table = s.table := by
  obtain ⟨-, -, rfl⟩ | ⟨r, rfl⟩ := exec_cases_of_constant ht h
  · exact idle_table s
  · exact answered_table s r

theorem tickBuild_table_of_ready {s : State} (hr : s.tableReady = true) : (tickBuild s).table = s.table := by
  rw [tickBuild_of_ready hr]

theorem step_table_eq {s t : State} (ht : s.tableReady = true → s.table = Config.romTable) (hr : s.tableReady = true)
    (hn : ∀ rest, s.inputs ≠ .reset :: rest) (h : step s = .next t) : t.table = s.table := by
  obtain ⟨rest, hreset, -⟩ | ⟨op, p, rest, -, -, rfl⟩ | ⟨op, rest, u, -, -, hu, rfl⟩ | ⟨rest, -, -, rfl⟩ :=
    step_cases h
  case inl => exact absurd hreset (hn rest)
  case inr.inl => exact tickBuild_table_of_ready hr
  case inr.inr.inl =>
    rw [tickBuild_table_of_ready ((exec_tableReady_eq hu).trans hr), exec_table_eq (s := { s with inputs := rest }) ht hu]
  case inr.inr.inr => exact tickBuild_table_of_ready hr

/-- Settles O13: the invariant gives the entries, and no command or step without reset writes another table. -/
theorem readyTableHoldsCrcAndNeverChanges : Obligations.ReadyTableHoldsCrcAndNeverChanges := by
  intro s hs hr
  refine ⟨fun i => ?entries, fun i t => exec_table_eq hs.tableConstant, fun t => step_table_eq hs.tableConstant hr⟩
  rw [hs.tableConstant hr, readTable_romTable]

end Sys2Proof.Machine
end

section
/-!
The step of the block with its host (10_state.md R22, 60_exceptions.md R116, log 5): the step for each input, the next
step of a placed command, and the reset build, which ends while the block waits with nothing on its port or with a held
command (70_reset_and_hazards.md R117 to R122).
-/

namespace Sys2Proof.Machine

/-! ### The step, input by input -/

theorem step_of_nil {s : State} (hq : s.inputs = []) : step s = blockStep s := by
  simp only [step, hostStep, hq]

theorem step_of_quiet {s : State} {rest : List HostInput} (hq : s.inputs = .quiet :: rest) :
    step s = blockStep { s with inputs := rest } := by
  simp only [step, hostStep, hq]

theorem step_of_reset {s : State} {rest : List HostInput} (hi : s.inputs = .reset :: rest) :
    step s = .next (assertReset { s with inputs := rest }) := by
  simp only [step, hostStep, hi]

theorem step_of_command_of_idle {s : State} {op : Selector} {p : OperandPorts} {rest : List HostInput}
    (hi : s.inputs = .command op p :: rest) (hp : s.port = none) :
    step s = .next (tickBuild (present op p { s with inputs := rest })) := by
  simp only [step, hostStep, hi, hp]

theorem step_of_command_of_busy {s : State} {op op' : Selector} {p : OperandPorts} {rest : List HostInput}
    (hi : s.inputs = .command op p :: rest) (hp : s.port = some op') : step s = blockStep s := by
  simp only [step, hostStep, hi, hp]

theorem blockStep_of_port {s : State} {op : Selector} (hp : s.port = some op) :
    blockStep s = mapNext tickBuild (exec (decodeSelector op) s) := by
  simp only [blockStep, portStep, hp]

theorem blockStep_of_idle {s : State} (hp : s.port = none) : blockStep s = .next (tickBuild (idle s)) := by
  simp only [blockStep, portStep, hp, mapNext_next]

/-- In a ready state the build agent adds nothing to a command. -/
theorem mapNext_tickBuild_exec_of_ready {s : State} (hr : s.tableReady = true) (i : Instr) :
    mapNext tickBuild (exec i s) = exec i s := by
  cases h : exec i s with
  | next t => rw [mapNext_next, tickBuild_of_ready ((exec_tableReady_eq h).trans hr)]
  | fault r => rfl
  | refused r => rfl

theorem step_eq_exec_of_ready {s : State} {op : Selector} (hp : s.port = some op) (hq : s.inputs = [])
    (hr : s.tableReady = true) : step s = exec (decodeSelector op) s := by
  rw [step_of_port_of_quiet hp hq, mapNext_tickBuild_exec_of_ready hr]

/-- Settles O3: the block's step runs the command on the port for every input but a reset. -/
theorem stepRunsDecodedCommand : Obligations.StepRunsDecodedCommand := by
  rintro s op _ hp rfl -
  refine ⟨fun hq => step_of_port_of_quiet hp hq, fun rest hq => ?quiet, fun op' p rest hi => ?waiting,
    fun hr hq => ?ready⟩
  case quiet => exact (step_of_quiet hq).trans (blockStep_of_port hp)
  case waiting => exact (step_of_command_of_busy hi hp).trans (blockStep_of_port hp)
  case ready => exact step_eq_exec_of_ready hp hq hr

/-- Settles O5: the port agent idles, and the build agent has nothing to do. -/
theorem idleStepChangesNoState : Obligations.IdleStepChangesNoState := by
  intro s hp hq hr
  have hidle : (idle s).tableReady = true := hr
  rw [step_of_nil hq, blockStep_of_idle hp, tickBuild_of_ready hidle, idle]

/-- Settles O22: an error is none of the cases in which a command is held or writes the table, and its port is idle. -/
theorem errorsWriteNoStateAndLeaveBlockReady : Obligations.ErrorsWriteNoStateAndLeaveBlockReady := by
  intro i s t r h hr hne
  have ht : t = answered s r := by
    obtain ⟨-, -, rfl⟩ | ⟨r', rfl⟩ | ⟨-, -, rfl⟩ := exec_cases h
    · exact nomatch hr
    · rw [Option.some.inj hr]
    · obtain rfl := Option.some.inj hr
      exact absurd rfl hne
  refine ⟨ht, fun op p rest => ⟨_, step_of_command_of_idle rfl ?_, by simp, by simp⟩⟩
  rw [ht, answered_port]

/-- A line sets the port its operation reads, and no other. -/
theorem samePort_asmPorts_of_not_mem (fill : ErrKind → GroupError) (base : OperandPorts) {l : AsmLine} {n : PortName}
    (hn : n ∉ portsRead l.instr) : samePort (asmPorts fill base l) base n = true := by
  cases l <;> cases n <;> simp [asmPorts, samePort, portsRead, AsmLine.instr] at hn ⊢

/-- Settles O60: a line is presented as its selector and its ports; each kind of line sets one port, which is the one its
operation reads. -/
theorem assembledLinePresentsSelectorAndOperand : Obligations.AssembledLinePresentsSelectorAndOperand := by
  intro l fill base s rest hp hi
  refine ⟨_, step_of_command_of_idle hi hp, by simp, fun op hop => ?selector, ?_⟩
  case selector =>
    rw [tickBuild_port, present_port, Option.some.injEq] at hop
    rw [← hop, decodeSelector_encode]
  simp only [tickBuild_ports, present_ports]
  refine ⟨fun n hn => samePort_asmPorts_of_not_mem fill base hn, ?_⟩
  cases l <;> simp [asmPorts]

/-! ### A placed command -/

theorem withCommand_port (s : State) (i : Instr) : (withCommand s i).port = some (encode i) := by
  unfold withCommand
  split <;> rfl

theorem withCommand_inputs (s : State) (i : Instr) :
    (withCommand s i).inputs = s.inputs.dropWhile HostInput.isReset := by
  unfold withCommand
  split <;> rfl

theorem withCommand_params (s : State) (i : Instr) : (withCommand s i).params = s.params := by
  unfold withCommand
  split <;> rfl

/-- A command that needs the table is placed after the build (log 9). -/
theorem withCommand_ready {s : State} {i : Instr} (hi : needsTable i = true) :
    (withCommand s i).tableReady = true := by
  unfold withCommand
  cases hr : s.tableReady <;> simp [hi, hr]

theorem withCommand_table {s : State} (ht : s.tableReady = true → s.table = Config.romTable) (i : Instr)
    (hr : (withCommand s i).tableReady = true) : (withCommand s i).table = Config.romTable := by
  unfold withCommand at hr ⊢
  split at hr
  next hbuild => rw [if_pos hbuild]; exact builtTable_eq
  next hbuild => rw [if_neg hbuild]; exact ht hr

theorem resetWith_table_of_ready {p : Params} {α : Alphabet} {junk : Table} {n : Nat}
    (hr : (State.resetWith p α junk n).tableReady = true) : (State.resetWith p α junk n).table = Config.romTable := by
  rw [resetWith_table, if_pos (of_decide_eq_true hr)]

theorem withinCapacity_of_unbounded (i : Instr) {s : State} (hw : s.params.maxWords = none)
    (ht : s.params.maxText = none) : withinCapacity i s = true := by
  cases i <;> simp [withinCapacity, hw, ht]

/-- Settles O6: the placed command is neither held nor beyond capacity, so it answers in the step; what the build agent
adds is in the three fields that the statement takes from before the step. -/
theorem placedCommandRunsInNextStep : Obligations.PlacedCommandRunsInNextStep := by
  intro i p α junk n hw ht s
  have hs : s = withCommand (State.resetWith p α junk n) i := by
    simp only [s, State.withFetchWord, decodeTableWord_encode]
  have hready : needsTable i = true → s.tableReady = true := fun hi => hs ▸ withCommand_ready hi
  have hparams : s.params = p := by rw [hs, withCommand_params, resetWith_params]
  obtain ⟨u, r, hexec⟩ :=
    exec_answers hready (withinCapacity_of_unbounded i (hparams ▸ hw) (hparams ▸ ht))
  have hframe : ∃ r', answered u r = answered s r' := by
    obtain ⟨-, -, hheld⟩ | hans := exec_cases_of_constant (hs ▸ withCommand_table resetWith_table_of_ready i) hexec
    · exact nomatch congrArg State.response hheld
    · exact hans
  obtain ⟨r', hr'⟩ := hframe
  have hstep : step s = .next (tickBuild (answered s r')) := by
    rw [step_of_port_of_quiet (hs ▸ withCommand_port _ i) (by rw [hs, withCommand_inputs]; rfl), decodeSelector_encode,
      hexec, hr', mapNext_next]
  refine ⟨_, hstep, by simp, by simp, ?_⟩
  rw [hexec, hr', tickBuild_frame]
  rfl

/-! ### The reset build -/

/-- Whether a command answers or is held, the build agent finds its counter as it was. -/
theorem exec_buildDelay_eq {i : Instr} {s t : State} (h : exec i s = .next t) : t.buildDelay = s.buildDelay := by
  obtain ⟨-, -, rfl⟩ | ⟨r, rfl⟩ | ⟨-, -, rfl⟩ := exec_cases h
  · exact idle_buildDelay s
  · exact answered_buildDelay s r
  · rw [answered_buildDelay, writeTable_buildDelay]

/-- With its completion due, the build agent completes the build beside whatever else the step does. -/
theorem step_finishes_build {s t : State} (hr : s.tableReady = false) (hd : s.buildDelay = 0)
    (hn : ∀ rest, s.inputs ≠ .reset :: rest) (h : step s = .next t) : ∃ u, t = finishBuild u := by
  obtain ⟨rest, hreset, -⟩ | ⟨op, p, rest, -, -, rfl⟩ | ⟨op, rest, u, -, -, hu, rfl⟩ | ⟨rest, -, -, rfl⟩ :=
    step_cases h
  case inl => exact absurd hreset (hn rest)
  case inr.inl => exact ⟨_, tickBuild_of_zero hr hd⟩
  case inr.inr.inl =>
    exact ⟨u, tickBuild_of_zero ((exec_tableReady_eq hu).trans hr) ((exec_buildDelay_eq hu).trans hd)⟩
  case inr.inr.inr => exact ⟨_, tickBuild_of_zero hr hd⟩

/-- Settles O11: the step ends in the completion, which writes `crc5` of every index. -/
theorem resetBuildWritesTableAndSetsReady : Obligations.ResetBuildWritesTableAndSetsReady := by
  intro s t hr hd hn h
  obtain ⟨u, rfl⟩ := step_finishes_build hr hd hn h
  exact ⟨rfl, readTable_builtTable⟩

/-- The block waits for its table: it is not ready, the host is quiet, and what stands on the port, if anything, is
held. -/
structure State.Waits (s : State) : Prop where
  building : s.tableReady = false
  quiet    : s.inputs = []
  held     : ∀ op, s.port = some op → needsTable (decodeSelector op) = true

theorem State.Waits.step_eq {s : State} (hs : s.Waits) : step s = .next (tickBuild (idle s)) := by
  cases hp : s.port with
  | none => rw [step_of_nil hs.quiet, blockStep_of_idle hp]
  | some op =>
    rw [step_of_port_of_quiet hp hs.quiet, exec_of_held (hs.held op hp) hs.building, mapNext_next]

theorem State.Waits.step_eq_of_zero {s : State} (hs : s.Waits) (hd : s.buildDelay = 0) :
    step s = .next (finishBuild (idle s)) := by
  have hbuilding : (idle s).tableReady = false := hs.building
  rw [hs.step_eq, tickBuild_of_zero hbuilding hd]

theorem State.Waits.step_eq_of_succ {s : State} (hs : s.Waits) {n : Nat} (hd : s.buildDelay = n + 1) :
    step s = .next { idle s with buildDelay := n } := by
  have hbuilding : (idle s).tableReady = false := hs.building
  rw [hs.step_eq, tickBuild_of_succ hbuilding hd]

/-- One step nearer the completion the block still waits. -/
theorem State.Waits.countDown {s : State} (hs : s.Waits) (n : Nat) : ({ idle s with buildDelay := n } : State).Waits :=
  { building := hs.building, quiet := hs.quiet, held := hs.held }

/-- Up to `buildDelay` steps the build agent counts down, and nothing but the response changes beside its counter. -/
theorem State.Waits.run_eq {s : State} (hs : s.Waits) {k : Nat} (hk : k ≤ s.buildDelay) :
    ∃ r, core.run k s = .next { s with response := r, buildDelay := s.buildDelay - k } := by
  induction k generalizing s with
  | zero => exact ⟨s.response, core_run_zero s⟩
  | succ k ih =>
    obtain ⟨n, hd⟩ := Nat.exists_eq_add_one.mpr (Nat.zero_lt_of_lt hk)
    have hkn : k ≤ n := by omega
    obtain ⟨r, hrun⟩ := ih (hs.countDown n) hkn
    refine ⟨r, ?_⟩
    rw [core_run_succ k (hs.step_eq_of_succ hd), hrun, hd, Nat.add_sub_add_right]
    rfl

/-- One step more completes the build. -/
theorem State.Waits.run_succ_eq {s : State} (hs : s.Waits) :
    core.run (s.buildDelay + 1) s = .next { finishBuild (idle s) with buildDelay := 0 } := by
  induction hd : s.buildDelay generalizing s with
  | zero =>
    rw [core_run_succ 0 (hs.step_eq_of_zero hd), core_run_zero, ← hd]
    rfl
  | succ n ih =>
    rw [core_run_succ _ (hs.step_eq_of_succ hd), ih (hs.countDown n) rfl]
    rfl

/-- Settles O7: the fields of a reset are the model's own, and a block reset with `BUILT_AT_RESET` waits with an idle
port. -/
theorem resetEventLeavesResetValues : Obligations.ResetEventLeavesResetValues := by
  intro s rest hi
  refine ⟨_, step_of_reset hi, rfl, rfl, rfl, fun _ => rfl, rfl, rfl, rfl, fun hrom => ?rom, fun hbuilt => ?built⟩
  case rom => exact ⟨decide_eq_true hrom, if_pos hrom⟩
  case built =>
    have hbuilding : (assertReset { s with inputs := rest }).tableReady = false := by simp [hbuilt]
    have hwaits : ({ assertReset { s with inputs := rest } with inputs := [] } : State).Waits :=
      { building := hbuilding, quiet := rfl, held := nofun }
    exact ⟨hbuilding, _, hwaits.run_succ_eq, rfl, builtTable_eq⟩

/-- Settles O15: a held command waits for the table, and in the ready state after the build the step is its meaning. -/
theorem heldCommandIsAcceptedWhenBuildEnds : Obligations.HeldCommandIsAcceptedWhenBuildEnds := by
  intro s op hr hp hi hq
  have hwaits : s.Waits :=
    { building := hr, quiet := hq, held := fun op' hp' => Option.some.inj (hp.symm.trans hp') ▸ hi }
  refine ⟨fun k hk => ?before, _, hwaits.run_succ_eq, rfl, builtTable_eq, hp, rfl, rfl, ?accepted⟩
  case before =>
    obtain ⟨r, hrun⟩ := hwaits.run_eq hk
    exact ⟨_, hrun, hr, hp⟩
  case accepted => exact step_eq_exec_of_ready hp hq rfl

end Sys2Proof.Machine
end

section
/-!
What a command does not depend on. A command reads its listed ports, the alphabet, the parameters and, if it needs the
table, `TABLE` and `TABLE_READY`; two states that agree on these get the same outcome, up to what the command leaves
unchanged. That is one lemma over all operations, and the unlisted ports (30_encoding.md R49), the table (40_crc5.md R68),
an earlier command (20_memory.md R41) and the host's later inputs (10_state.md R22) are four uses of it.
-/

namespace Sys2Proof.Machine

/-- The operation `i` cannot tell `s'` from `s`, and `g` carries over to `s'` what it leaves of `s`, whether it answers, is
held or writes the table. -/
structure Alike (i : Instr) (g : State → State) (s s' : State) : Prop where
  params   : s'.params = s.params
  alpha    : s'.alpha = s.alpha
  ports    : ∀ n ∈ portsRead i, samePort s'.ports s.ports n = true
  table    : needsTable i = true → s'.table = s.table
  ready    : needsTable i = true → s'.tableReady = s.tableReady
  answered : ∀ r, answered s' r = g (answered s r)
  built    : needsTable i = true → ∀ t r, Machine.answered (writeTable s' t) r = g (Machine.answered (writeTable s t) r)
  held     : needsTable i = true → s.tableReady = false → idle s' = g (idle s)

/-! ### The shared operations -/

theorem Alike.answer {i : Instr} {g : State → State} {s s' : State} (h : Alike i g s s') {v v' : Result} (hv : v' = v) :
    answer s' v' = mapNext g (answer s v) := by
  rw [answer_eq, answer_eq, hv, h.answered, mapNext_next]

theorem Alike.raise {i : Instr} {g : State → State} {s s' : State} (h : Alike i g s s') (e : Status)
    {info info' : ErrInfo} (hinfo : info' = info) : raise s' e info' = mapNext g (raise s e info) := by
  rw [raise_eq, raise_eq, hinfo, h.answered, mapNext_next]

theorem Alike.whenReady {i : Instr} {g : State → State} {s s' : State} (h : Alike i g s s') (hi : needsTable i = true)
    {k k' : StepOutcome} (hk : k' = mapNext g k) : whenReady s' k' = mapNext g (whenReady s k) := by
  cases hr : s.tableReady with
  | true => rw [whenReady_of_ready ((h.ready hi).trans hr), whenReady_of_ready hr, hk]
  | false =>
    rw [whenReady_of_not_ready ((h.ready hi).trans hr), whenReady_of_not_ready hr, hold_eq, hold_eq, h.held hi hr,
      mapNext_next]

theorem Alike.withinWords {i : Instr} {g : State → State} {s s' : State} (h : Alike i g s s') {n n' : Nat} (hn : n' = n)
    {k k' : StepOutcome} (hk : k' = mapNext g k) : withinWords s' n' k' = mapNext g (withinWords s n k) := by
  cases hf : fits s.params.maxWords n with
  | true => rw [withinWords_of_fits (by rwa [h.params, hn]), withinWords_of_fits hf, hk]
  | false => rw [withinWords_of_not_fits (by rwa [h.params, hn]), withinWords_of_not_fits hf, mapNext]

theorem Alike.withinText {i : Instr} {g : State → State} {s s' : State} (h : Alike i g s s') {n n' : Nat} (hn : n' = n)
    {k k' : StepOutcome} (hk : k' = mapNext g k) : withinText s' n' k' = mapNext g (withinText s n k) := by
  cases hf : fits s.params.maxText n with
  | true => rw [withinText_of_fits (by rwa [h.params, hn]), withinText_of_fits hf, hk]
  | false => rw [withinText_of_not_fits (by rwa [h.params, hn]), withinText_of_not_fits hf, mapNext]

/-! ### All operations -/

theorem Alike.execDigitOf {g : State → State} {s s' : State} (h : Alike .digitOf g s s') :
    execDigitOf s' = mapNext g (execDigitOf s) := by
  have hchar : s'.ports.char = s.ports.char := eq_of_beq (h.ports .char (by decide))
  rw [Machine.execDigitOf, Machine.execDigitOf, h.alpha, hchar]
  cases digitOf s.alpha s.ports.char with
  | some d => exact h.answer rfl
  | none => exact h.raise _ rfl

theorem Alike.execDecodeGroup {g : State → State} {s s' : State} (h : Alike .decodeGroup g s s') :
    execDecodeGroup s' = mapNext g (execDecodeGroup s) := by
  have htext : s'.ports.text = s.ports.text := eq_of_beq (h.ports .text (by decide))
  refine h.whenReady rfl (h.withinText (by rw [htext]) ?_)
  rw [h.alpha, h.table rfl, htext]
  cases decodeGroup s.alpha s.table s.ports.text with
  | accepted w => exact h.answer rfl
  | rejected e => exact h.raise _ rfl

/-- An operation that cannot tell two states apart does the same in both. -/
theorem Alike.exec {i : Instr} {g : State → State} {s s' : State} (h : Alike i g s s') :
    exec i s' = mapNext g (exec i s) := by
  cases i
  case reserved0000 | reserved1110 | reserved1111 => exact h.raise _ rfl
  case digitOf => exact h.execDigitOf
  case decodeGroup => exact h.execDecodeGroup
  case crc5Bitwise =>
    have hu20 : s'.ports.u20 = s.ports.u20 := eq_of_beq (h.ports .u20 (by decide))
    exact h.answer (by rw [hu20])
  case tableBuild =>
    refine h.whenReady rfl ?_
    rw [answer_eq, answer_eq, h.built rfl, mapNext_next]
  case tableRead =>
    have hd5 : s'.ports.d5 = s.ports.d5 := eq_of_beq (h.ports .d5 (by decide))
    exact h.whenReady rfl (h.answer (by rw [h.table rfl, hd5]))
  case crc5Fold =>
    have hdigits : s'.ports.digits = s.ports.digits := eq_of_beq (h.ports .digits (by decide))
    exact h.whenReady rfl (h.withinText (by rw [hdigits]) (h.answer (by rw [h.table rfl, hdigits])))
  case symbolOf =>
    have hd5 : s'.ports.d5 = s.ports.d5 := eq_of_beq (h.ports .d5 (by decide))
    exact h.answer (by rw [h.alpha, hd5])
  case splitWords =>
    have hnat : s'.ports.nat = s.ports.nat := eq_of_beq (h.ports .nat (by decide))
    exact h.withinWords (by rw [hnat]) (h.answer (by rw [hnat]))
  case joinWords =>
    have hwords : s'.ports.words = s.ports.words := eq_of_beq (h.ports .words (by decide))
    exact h.withinWords (by rw [hwords]) (h.answer (by rw [hwords]))
  case encodeWord =>
    have hu20 : s'.ports.u20 = s.ports.u20 := eq_of_beq (h.ports .u20 (by decide))
    exact h.whenReady rfl (h.answer (by rw [h.alpha, h.table rfl, hu20]))
  case encodeKey =>
    have hnat : s'.ports.nat = s.ports.nat := eq_of_beq (h.ports .nat (by decide))
    exact h.whenReady rfl (h.withinWords (by rw [hnat]) (h.answer (by rw [h.alpha, h.table rfl, hnat])))
  case decodeKey =>
    have htext : s'.ports.text = s.ports.text := eq_of_beq (h.ports .text (by decide))
    exact h.whenReady rfl (h.withinText (by rw [htext]) (h.answer (by rw [h.alpha, h.table rfl, htext])))
  case renderDecoded =>
    have hresults : s'.ports.results = s.ports.results := eq_of_beq (h.ports .results (by decide))
    exact h.withinText (by rw [hresults]) (h.answer (by rw [hresults]))

/-! ### The four uses -/

theorem samePort_self (p : OperandPorts) (n : PortName) : samePort p p n = true := by
  cases n <;> exact beq_self_eq_true _

/-- Settles O17: only the listed ports are among what the operation reads. -/
theorem unlistedPortsHaveNoEffect : Obligations.UnlistedPortsHaveNoEffect := by
  intro i s p hp
  have halike : Alike i (fun t => { t with ports := p }) s { s with ports := p } :=
    { params := rfl, alpha := rfl, ports := hp, table := fun _ => rfl, ready := fun _ => rfl, answered := fun _ => rfl,
      built := fun _ _ _ => rfl, held := fun _ _ => rfl }
  exact halike.exec

/-- Settles O18: an operation that does not need the table reads neither `TABLE` nor `TABLE_READY`. -/
theorem otherOperationsIgnoreTheTable : Obligations.OtherOperationsIgnoreTheTable := by
  intro i s tb b hi
  have hno : ¬ needsTable i = true := by simp [hi]
  have halike : Alike i (fun t => { t with table := tb, tableReady := b }) s { s with table := tb, tableReady := b } :=
    { params := rfl, alpha := rfl, ports := fun n _ => samePort_self _ n, table := fun h => absurd h hno,
      ready := fun h => absurd h hno, answered := fun _ => rfl, built := fun h => absurd h hno,
      held := fun h => absurd h hno }
  exact halike.exec

theorem mapNext_id (o : StepOutcome) : mapNext id o = o := by
  cases o <;> rfl

/-- In a ready state the port and the response are no part of what a command reads, and both are overwritten. -/
theorem exec_of_ready_setPortResponse {s : State} (hr : s.tableReady = true) (i : Instr) (x : Option Selector)
    (y : Option Response) : exec i { s with port := x, response := y } = exec i s := by
  have halike : Alike i id s { s with port := x, response := y } :=
    { params := rfl, alpha := rfl, ports := fun n _ => samePort_self _ n, table := fun _ => rfl, ready := fun _ => rfl,
      answered := fun _ => rfl, built := fun _ _ _ => rfl, held := fun _ hn => nomatch hr.symm.trans hn }
  rw [halike.exec, mapNext_id]

/-- Settles O19: the earlier command changed the port and the response only. -/
theorem responsesDoNotDependOnEarlierCommands : Obligations.ResponsesDoNotDependOnEarlierCommands := by
  intro i j s t p hs hr h
  obtain ⟨hframe, -⟩ := commandsChangeOnlyPortAndResponse j s t hs h
  have hready : ({ s with ports := p } : State).tableReady = true := hr
  rw [hframe]
  exact congrArg responseOf (exec_of_ready_setPortResponse hready i t.port t.response)

theorem exec_setInputs (i : Instr) (s : State) (l : List HostInput) :
    exec i { s with inputs := l } = mapNext (fun t => { t with inputs := l }) (exec i s) := by
  have halike : Alike i (fun t => { t with inputs := l }) s { s with inputs := l } :=
    { params := rfl, alpha := rfl, ports := fun n _ => samePort_self _ n, table := fun _ => rfl, ready := fun _ => rfl,
      answered := fun _ => rfl, built := fun _ _ _ => rfl, held := fun _ _ => rfl }
  exact halike.exec

theorem tickBuild_setInputs (s : State) (l : List HostInput) :
    tickBuild { s with inputs := l } = { tickBuild s with inputs := l } := by
  obtain ⟨hr, h⟩ | ⟨hr, hd, h⟩ | ⟨n, hr, hd, h⟩ := tickBuild_cases s
  · rw [h]
    exact tickBuild_of_ready hr
  · rw [h]
    exact tickBuild_of_zero hr hd
  · rw [h]
    exact tickBuild_of_succ hr hd

/-- Settles O4: a command that finds the port busy stays in a list which neither the command that runs nor the build
agent reads. -/
theorem commandPortTakesOneCommandAtATime : Obligations.CommandPortTakesOneCommandAtATime := by
  intro s op p rest hi
  refine ⟨fun hp => step_of_command_of_idle hi hp, fun op' t hp ht => ?_⟩
  rw [step_of_port_of_quiet (s := { s with inputs := [] }) hp rfl] at ht
  obtain ⟨u, hu, rfl⟩ := mapNext_eq_next ht
  have hexec : exec (decodeSelector op') s = .next { u with inputs := s.inputs } := by
    calc exec (decodeSelector op') s
        = mapNext (fun t => { t with inputs := s.inputs }) (exec (decodeSelector op') { s with inputs := [] }) :=
          exec_setInputs _ { s with inputs := [] } s.inputs
      _ = .next { u with inputs := s.inputs } := by rw [hu, mapNext_next]
  rw [step_of_command_of_busy hi hp, blockStep_of_port hp, hexec, mapNext_next, tickBuild_setInputs]

end Sys2Proof.Machine
end

section
/-!
The capacity refusals and the order of the conditions (60_exceptions.md R103, R105; log 11). A command is held, or beyond
capacity, or answers: it is refused exactly where it is not held and its operand is beyond capacity.
-/

namespace Sys2Proof.Machine

/-! ### Refused, held or answered -/

/-- The refusal of an operation that has a capacity: by words or by the length of a sequence (60_exceptions.md R105). -/
def capacityRefusal : Instr → Refusal
  | .splitWords | .joinWords | .encodeKey => .tooManyWords
  | _ => .sequenceTooLong

theorem exec_of_beyond_capacity {i : Instr} {s : State} (hr : needsTable i = true → s.tableReady = true)
    (hc : withinCapacity i s = false) : exec i s = .refused (capacityRefusal i) := by
  cases i
  case splitWords | joinWords => exact withinWords_of_not_fits hc _
  case renderDecoded => exact withinText_of_not_fits hc _
  case encodeKey => exact (exec_encodeKey_of_ready (hr rfl)).trans (withinWords_of_not_fits hc _)
  case crc5Fold | decodeGroup | decodeKey =>
    exact (whenReady_of_ready (hr rfl) _).trans (withinText_of_not_fits hc _)
  all_goals exact nomatch hc

theorem exec_eq_refused_iff {i : Instr} {s : State} {q : Refusal} :
    exec i s = .refused q ↔
      (needsTable i = true → s.tableReady = true) ∧ withinCapacity i s = false ∧ q = capacityRefusal i := by
  by_cases hr : needsTable i = true → s.tableReady = true
  case neg =>
    obtain ⟨hi, hnr⟩ := Classical.not_imp.mp hr
    rw [exec_of_held hi (Bool.eq_false_iff.mpr hnr)]
    exact iff_of_false nofun fun ⟨hready, _, _⟩ => hr hready
  case pos =>
    cases hc : withinCapacity i s with
    | true =>
      obtain ⟨u, r, hexec⟩ := exec_answers hr hc
      rw [hexec]
      exact iff_of_false nofun fun ⟨_, hbeyond, _⟩ => nomatch hbeyond
    | false =>
      rw [exec_of_beyond_capacity hr hc, Host.Outcome.refused.injEq]
      exact ⟨fun h => ⟨hr, rfl, h.symm⟩, fun ⟨_, _, h⟩ => h.symm⟩

theorem fits_eq_false_iff {limit : Option Nat} {n : Nat} : fits limit n = false ↔ ∃ m, limit = some m ∧ m < n := by
  cases limit <;> simp [fits]

theorem exec_eq_tooManyWords_iff {i : Instr} {s : State} :
    exec i s = .refused .tooManyWords ↔
      (∃ m, s.params.maxWords = some m ∧
        ((i = .splitWords ∧ m < (splitWords s.ports.nat).length) ∨
          (i = .encodeKey ∧ s.tableReady = true ∧ m < (splitWords s.ports.nat).length) ∨
          (i = .joinWords ∧ m < s.ports.words.length))) := by
  rw [exec_eq_refused_iff]
  cases i <;> simp [needsTable, withinCapacity, capacityRefusal, fits_eq_false_iff, and_left_comm]

theorem exec_eq_sequenceTooLong_iff {i : Instr} {s : State} :
    exec i s = .refused .sequenceTooLong ↔
      (∃ m, s.params.maxText = some m ∧
        ((i = .crc5Fold ∧ s.tableReady = true ∧ m < s.ports.digits.length) ∨
          ((i = .decodeGroup ∨ i = .decodeKey) ∧ s.tableReady = true ∧ m < s.ports.text.length) ∨
          (i = .renderDecoded ∧ m < s.ports.results.length))) := by
  rw [exec_eq_refused_iff]
  cases i <;> simp [needsTable, withinCapacity, capacityRefusal, fits_eq_false_iff, and_left_comm]

theorem exec_next_of_unbounded (i : Instr) {s : State} (hw : s.params.maxWords = none) (ht : s.params.maxText = none) :
    ∃ t, exec i s = .next t := by
  cases h : exec i s with
  | next t => exact ⟨t, rfl⟩
  | fault r => exact nomatch r
  | refused q =>
    obtain ⟨-, hbeyond, -⟩ := exec_eq_refused_iff.mp h
    exact nomatch hbeyond.symm.trans (withinCapacity_of_unbounded i hw ht)

theorem blockStep_next_of_unbounded {s : State} (hw : s.params.maxWords = none) (ht : s.params.maxText = none) :
    ∃ t, blockStep s = .next t := by
  cases hp : s.port with
  | none => exact ⟨_, blockStep_of_idle hp⟩
  | some op =>
    obtain ⟨u, hu⟩ := exec_next_of_unbounded (decodeSelector op) hw ht
    exact ⟨tickBuild u, by rw [blockStep_of_port hp, hu, mapNext_next]⟩

theorem step_next_of_unbounded {s : State} (hw : s.params.maxWords = none) (ht : s.params.maxText = none) :
    ∃ t, step s = .next t := by
  match hi : s.inputs with
  | [] =>
    rw [step_of_nil hi]
    exact blockStep_next_of_unbounded hw ht
  | .quiet :: rest =>
    rw [step_of_quiet hi]
    exact blockStep_next_of_unbounded hw ht
  | .reset :: rest => exact ⟨_, step_of_reset hi⟩
  | .command op p :: rest =>
    cases hp : s.port with
    | none => exact ⟨_, step_of_command_of_idle hi hp⟩
    | some op' =>
      rw [step_of_command_of_busy hi hp]
      exact blockStep_next_of_unbounded hw ht

/-- Settles O24: the two refusals by operation, and with both parameters unbounded no operand is beyond capacity. -/
theorem onlyOperandsBeyondCapacityAreRefused : Obligations.OnlyOperandsBeyondCapacityAreRefused :=
  ⟨fun _ _ => exec_eq_tooManyWords_iff, fun _ _ => exec_eq_sequenceTooLong_iff, fun _ => step_next_of_unbounded⟩

/-! ### The order of the conditions -/

theorem checkDigits_status_eq_checksumMismatch_iff {t : Table} {g : Text} {a b c d e : Digit} :
    (checkDigits t g a b c d e).response.status = .checksumMismatch ↔ fold t [a, b, c, d] ≠ e := by
  by_cases h : fold t [a, b, c, d] = e
  · rw [checkDigits_of_eq g h]
    exact iff_of_false nofun (not_not_intro h)
  · rw [checkDigits_of_ne g h]
    exact iff_of_true rfl h

/-- What an answered command did: `DECODE_GROUP` gave the decoder's result. -/
theorem exec_answers_decodeGroup {i : Instr} {s : State} (hr : needsTable i = true → s.tableReady = true)
    (hc : withinCapacity i s = true) :
    ∃ u r, exec i s = .next (answered u r) ∧
      (i = .decodeGroup → r = (decodeGroup s.alpha s.table s.ports.text).response) := by
  by_cases hi : i = .decodeGroup
  · subst hi
    exact ⟨s, _, exec_decodeGroup_of_ready (hr rfl) hc, fun _ => rfl⟩
  · obtain ⟨u, r, hexec⟩ := exec_answers hr hc
    exact ⟨u, r, hexec, fun h => absurd h hi⟩

/-- Settles O23: reserved, held, beyond capacity and answered in turn; an answered `DECODE_GROUP` goes by the decoder's
cases. -/
theorem conditionsAreCheckedInOrder : Obligations.ConditionsAreCheckedInOrder := by
  intro i s
  refine ⟨fun hres => exec_of_isReserved hres s, fun _ hi hr => exec_of_held hi hr, fun _ hr hc => ?refused,
    fun _ hr hc => ?answers⟩
  case refused =>
    rw [exec_of_beyond_capacity hr hc]
    cases i <;> simp [capacityRefusal]
  case answers =>
    obtain ⟨u, r, hexec, hgroup⟩ := exec_answers_decodeGroup hr hc
    refine ⟨_, r, hexec, rfl, rfl, fun hi => ?_⟩
    rw [hgroup hi]
    refine ⟨fun hlen => ?length, fun hlen k c hkc => ?symbol, fun a b c d e hds => ?checksum⟩
    case length =>
      rw [decodeGroup_of_length_ne hlen]
      rfl
    case symbol =>
      rw [decodeGroup_of_firstUnresolved _ hlen hkc]
      exact ⟨rfl, rfl⟩
    case checksum =>
      rw [decodeGroup_of_resolvesTo _ hds]
      exact checkDigits_status_eq_checksumMismatch_iff

end Sys2Proof.Machine
end

section
/-!
The algebraic meaning of the CRC-5 (40_crc5.md sections 1 and 3): a digit is a residue of a polynomial when it stands for
the polynomial plus a multiple of the generator polynomial. Each step of the bit-serial loop adds such a multiple and
clears the top bit, so the loop ends in a residue of five bits; and each step of the fold is one such loop. A residue of
five bits is the remainder, because the generator polynomial is monic of degree 5.
-/

namespace Sys2Proof.Machine

open Polynomial

/-! ### Bit vectors as polynomials over GF(2) -/

theorem IsPoly.xor {n : Nat} {p q : Polynomial (ZMod 2)} {u v : BitVec n} (hp : IsPoly p u) (hq : IsPoly q v) :
    IsPoly (p + q) (u ^^^ v) := by
  intro k
  rw [coeff_add, hp k, hq k, BitVec.getLsbD_xor]
  cases u.getLsbD k <;> cases v.getLsbD k <;> decide

/-- Where no bit is lost, a change of width changes no coefficient. -/
theorem IsPoly.setWidth {n m : Nat} {p : Polynomial (ZMod 2)} {v : BitVec n} (hp : IsPoly p v)
    (hv : ∀ k, m ≤ k → v.getLsbD k = false) : IsPoly p (v.setWidth m) := by
  intro k
  have hbit : (v.setWidth m).getLsbD k = v.getLsbD k := by
    rw [BitVec.getLsbD_setWidth]
    by_cases hk : k < m
    · simp [hk]
    · simp [hv k (Nat.le_of_not_lt hk)]
  rw [hbit, hp k]

theorem IsPoly.mul_X_pow {n : Nat} {p : Polynomial (ZMod 2)} {v : BitVec n} (hp : IsPoly p v) (j : Nat)
    (hv : ∀ k, n ≤ k + j → v.getLsbD k = false) : IsPoly (p * X ^ j) (v <<< j) := by
  intro k
  rw [coeff_mul_X_pow', BitVec.getLsbD_shiftLeft]
  by_cases hj : j ≤ k
  · have hbit : (decide (k < n) && (!decide (k < j) && v.getLsbD (k - j))) = v.getLsbD (k - j) := by
      by_cases hk : k < n
      · simp [hk, hj]
      · simp [hv (k - j) (by omega)]
    rw [if_pos hj, hp, Bool.and_assoc, hbit]
  · simp [hj, Nat.lt_of_not_le hj]

theorem IsPoly.degree_lt {n : Nat} {p : Polynomial (ZMod 2)} {v : BitVec n} (hp : IsPoly p v) : p.degree < n :=
  (degree_lt_iff_coeff_zero p n).mpr fun k hk => by simp [hp k, BitVec.getLsbD_of_ge v k hk]

/-! ### The generator polynomial and its residues -/

/-- The generator polynomial (00_scope.md R6). -/
noncomputable def generatorPoly : Polynomial (ZMod 2) := X ^ 5 + X ^ 2 + 1

theorem isPoly_generator : IsPoly generatorPoly Config.generator := by
  intro k
  by_cases hk : k < 6
  · interval_cases k <;> simp [generatorPoly, coeff_one, Config.generator]
  · have hne : k ≠ 5 ∧ k ≠ 2 ∧ k ≠ 0 := by omega
    simp [generatorPoly, coeff_X_pow, coeff_one, hne, BitVec.getLsbD_of_ge _ k (Nat.le_of_not_lt hk)]

theorem generatorPoly_monic : generatorPoly.Monic := by
  unfold generatorPoly
  monicity!

theorem generatorPoly_degree : generatorPoly.degree = 5 := by
  unfold generatorPoly
  compute_degree!

/-- The bit vector stands for `p` plus a multiple of the generator polynomial. -/
def IsResidue {n : Nat} (p : Polynomial (ZMod 2)) (v : BitVec n) : Prop := ∃ q, IsPoly (p + q * generatorPoly) v

theorem IsPoly.isResidue {n : Nat} {p : Polynomial (ZMod 2)} {v : BitVec n} (hp : IsPoly p v) : IsResidue p v :=
  ⟨0, by rwa [zero_mul, add_zero]⟩

/-- A residue that fits a digit is the remainder. -/
theorem IsResidue.isPoly_modByMonic {p : Polynomial (ZMod 2)} {v : Digit} (h : IsResidue p v) :
    IsPoly (p %ₘ generatorPoly) v := by
  obtain ⟨q, hq⟩ := h
  have hsmall : (p + q * generatorPoly) %ₘ generatorPoly = p + q * generatorPoly :=
    (modByMonic_eq_self_iff generatorPoly_monic).mpr (generatorPoly_degree ▸ hq.degree_lt)
  have hmod : p %ₘ generatorPoly = p + q * generatorPoly := by
    rw [← hsmall, add_modByMonic, (modByMonic_eq_zero_iff_dvd generatorPoly_monic).mpr (dvd_mul_left _ _), add_zero]
  rwa [hmod]

/-! ### The bit-serial loop -/

theorem getLsbD_generator_shiftLeft {i j : Nat} (hi : i < 20) (hj : i + 5 ≤ j) :
    (Config.generator.setWidth 25 <<< i).getLsbD j = decide (j = i + 5) := by
  rw [BitVec.getLsbD_shiftLeft, BitVec.getLsbD_setWidth]
  by_cases h : j = i + 5
  · simp [h, Config.generator]
    omega
  · rw [BitVec.getLsbD_of_ge Config.generator (j - i) (by omega)]
    simp [h]

/-- Step `i` adds a multiple of the generator polynomial. -/
theorem IsResidue.crcStep {i : Nat} (hi : i < 20) {p : Polynomial (ZMod 2)} {r : BitVec 25} (h : IsResidue p r) :
    IsResidue p (crcStep i r) := by
  obtain ⟨q, hq⟩ := h
  unfold Machine.crcStep
  split
  case isFalse => exact ⟨q, hq⟩
  case isTrue =>
    have hwide : IsPoly generatorPoly (Config.generator.setWidth 25) :=
      isPoly_generator.setWidth fun k hk => BitVec.getLsbD_of_ge _ k (by omega)
    have haligned : IsPoly (generatorPoly * X ^ i) (Config.generator.setWidth 25 <<< i) :=
      hwide.mul_X_pow i fun k hk => by
        rw [BitVec.getLsbD_setWidth, BitVec.getLsbD_of_ge Config.generator k (by omega), Bool.and_false]
    refine ⟨q + X ^ i, ?_⟩
    have hsum : p + (q + X ^ i) * generatorPoly = p + q * generatorPoly + generatorPoly * X ^ i := by ring
    rw [hsum]
    exact hq.xor haligned

theorem IsResidue.crcSteps {k : Nat} (hk : k ≤ 20) {p : Polynomial (ZMod 2)} {r : BitVec 25} (h : IsResidue p r) :
    IsResidue p (crcSteps k r) := by
  induction k generalizing r with
  | zero => exact h
  | succ k ih => exact ih (by omega) (h.crcStep (by omega))

/-- Step `i` clears bit `i + 5` and sets none above it. -/
theorem getLsbD_crcStep {i : Nat} (hi : i < 20) {r : BitVec 25} (hr : ∀ j, i + 6 ≤ j → r.getLsbD j = false) {j : Nat}
    (hj : i + 5 ≤ j) : (crcStep i r).getLsbD j = false := by
  unfold crcStep
  split
  case isTrue htop =>
    rw [BitVec.getLsbD_xor, getLsbD_generator_shiftLeft hi hj]
    by_cases h : j = i + 5
    · simp [h, htop]
    · simp [h, hr j (by omega)]
  case isFalse htop =>
    by_cases h : j = i + 5
    · simpa [h] using htop
    · exact hr j (by omega)

theorem getLsbD_crcSteps {k : Nat} (hk : k ≤ 20) {r : BitVec 25} (hr : ∀ j, k + 5 ≤ j → r.getLsbD j = false) {j : Nat}
    (hj : 5 ≤ j) : (crcSteps k r).getLsbD j = false := by
  induction k generalizing r with
  | zero => exact hr j (by omega)
  | succ k ih => exact ih (by omega) fun j hj => getLsbD_crcStep (by omega) hr hj

theorem getLsbD_crcSteps_twenty (r : BitVec 25) {j : Nat} (hj : 5 ≤ j) : (crcSteps 20 r).getLsbD j = false :=
  getLsbD_crcSteps (Nat.le_refl 20) (fun j hj => BitVec.getLsbD_of_ge r j hj) hj

/-- After the loop the register holds the low five bits and nothing else (40_crc5.md R60). -/
theorem crcSteps_twenty_eq_setWidth_crc5 (n : Word) :
    crcSteps 20 (n.setWidth 25 <<< 5) = (crc5 n).setWidth 25 := by
  apply BitVec.eq_of_getLsbD_eq
  intro j hj
  rw [crc5, BitVec.getLsbD_setWidth, BitVec.getLsbD_setWidth]
  by_cases h : j < 5
  · simp [h, hj]
  · simp [h, getLsbD_crcSteps_twenty _ (Nat.le_of_not_lt h)]

theorem isResidue_crc5 {n : Word} {N : Polynomial (ZMod 2)} (hN : IsPoly N n) : IsResidue (N * X ^ 5) (crc5 n) := by
  have hwide : IsPoly N (n.setWidth 25) := hN.setWidth fun k hk => BitVec.getLsbD_of_ge n k (by omega)
  have hstart : IsPoly (N * X ^ 5) (n.setWidth 25 <<< 5) := hwide.mul_X_pow 5 fun k hk => by
    rw [BitVec.getLsbD_setWidth, BitVec.getLsbD_of_ge n k (by omega), Bool.and_false]
  obtain ⟨q, hq⟩ := hstart.isResidue.crcSteps (Nat.le_refl 20)
  exact ⟨q, hq.setWidth fun k hk => getLsbD_crcSteps_twenty _ hk⟩

/-- Settles O27: the loop ends in a residue, and its register has five bits left. -/
theorem crc5IsPolynomialRemainder : Obligations.Crc5IsPolynomialRemainder :=
  ⟨fun _ _ hN => (isResidue_crc5 hN).isPoly_modByMonic, crcSteps_twenty_eq_setWidth_crc5⟩

/-! ### The fold -/

/-- One lookup of the fold takes the residue of a message to the residue of the message with one digit more. -/
theorem IsResidue.readTable_romTable {M D : Polynomial (ZMod 2)} {d s : Digit} (hs : IsResidue (M * X ^ 5) s)
    (hD : IsPoly D d) : IsResidue ((M * X ^ 5 + D) * X ^ 5) (readTable Config.romTable (d ^^^ s)) := by
  obtain ⟨q, hq⟩ := hs
  have hword : IsPoly (D + (M * X ^ 5 + q * generatorPoly)) ((d ^^^ s).setWidth 20) :=
    (hD.xor hq).setWidth fun k hk => BitVec.getLsbD_of_ge _ k (by omega)
  obtain ⟨q', hq'⟩ := isResidue_crc5 hword
  have hsum : (M * X ^ 5 + D) * X ^ 5 + (q * X ^ 5 + q') * generatorPoly =
      (D + (M * X ^ 5 + q * generatorPoly)) * X ^ 5 + q' * generatorPoly := by ring
  refine ⟨q * X ^ 5 + q', ?_⟩
  rw [hsum, Machine.readTable_romTable]
  exact hq'

/-- Settles O31, by induction on the message: the fold of the digits so far is a residue. -/
theorem foldIsPolynomialRemainder : Obligations.FoldIsPolynomialRemainder := by
  intro ds M hM
  refine IsResidue.isPoly_modByMonic ?_
  induction hM with
  | nil => exact IsPoly.isResidue fun k => by simp [fold_nil]
  | snoc hM hD ih =>
    rw [fold_append]
    exact ih.readTable_romTable hD

end Sys2Proof.Machine
end

section
/-!
The printed table as a linear permutation (40_crc5.md R69), and what follows for the fold: at most four digits fold to the
CRC of the integer they make up (R67), and five fold to zero exactly when the fifth is the check digit
(43_group_encoder.md R82).
-/

namespace Sys2Proof.Machine

/-! ### The table is a linear permutation -/

theorem readTable_romTable_eq_zero_iff (v : Digit) : readTable Config.romTable v = 0 ↔ v = 0 := by
  revert v
  decide

theorem readTable_romTable_injective : Function.Injective (readTable Config.romTable) := by
  intro u v h
  have hzero : readTable Config.romTable (u ^^^ v) = 0 := by rw [readTable_romTable_xor, h, BitVec.xor_self]; rfl
  exact BitVec.xor_eq_zero_iff.mp ((readTable_romTable_eq_zero_iff _).mp hzero)

/-- Settles O34: a linear map that is zero only at zero is injective, and so bijective on the 32 digits. -/
theorem tableIsLinearPermutation : Obligations.TableIsLinearPermutation :=
  ⟨Finite.injective_iff_bijective.mp readTable_romTable_injective, readTable_romTable_xor,
    readTable_romTable_eq_zero_iff, crc5_xor⟩

/-! ### Short sequences -/

theorem reassemble_append (ds : List Digit) (d : Digit) : reassemble (ds ++ [d]) = reassemble ds * 32 + d.toNat := by
  simp [reassemble]

theorem reassemble_zero_cons (ds : List Digit) : reassemble (0 :: ds) = reassemble ds := by
  simp [reassemble]

theorem reassemble_lt (ds : List Digit) : reassemble ds < 2 ^ (5 * ds.length) := by
  induction ds using List.reverseRecOn with
  | nil => decide
  | append_singleton ds d ih =>
    have hd : d.toNat < 32 := d.isLt
    have hpow : 2 ^ (5 * (ds ++ [d]).length) = 2 ^ (5 * ds.length) * 32 := by
      rw [List.length_append, List.length_singleton, Nat.mul_add, Nat.pow_add]
    rw [reassemble_append, hpow]
    omega

theorem digits4_packWord (a b c d : Digit) : digits4 (packWord a b c d) = [a, b, c, d] := by
  simp only [digits4, packWord, List.cons.injEq, and_true]
  refine ⟨?_, ?_, ?_, ?_⟩ <;> ext i hi <;> interval_cases i <;> simp

theorem fold_romTable_four_eq_crc5 (a b c d : Digit) :
    fold Config.romTable [a, b, c, d] = crc5 (BitVec.ofNat 20 (reassemble [a, b, c, d])) := by
  rw [← packWord_eq_ofNat_reassemble, bitSerialAndTableDrivenPathsAgree, digits4_packWord]

/-- Zero digits before the first change neither the fold nor the integer, until there are four digits. -/
theorem fold_romTable_eq_crc5_of_length_add {k : Nat} {ds : List Digit} (hk : ds.length + k = 4) :
    fold Config.romTable ds = crc5 (BitVec.ofNat 20 (reassemble ds)) := by
  induction k generalizing ds with
  | zero =>
    match ds, hk with
    | [a, b, c, d], _ => exact fold_romTable_four_eq_crc5 a b c d
  | succ k ih =>
    have hlen : (0 :: ds).length + k = 4 := by simp; omega
    rw [← fold_romTable_zero_cons, ← reassemble_zero_cons, ih hlen]

/-- Settles O33: the digits are filled up to four with leading zeros. -/
theorem foldOfShortSequencesIsCrc5 : Obligations.FoldOfShortSequencesIsCrc5 := fun ds hlen =>
  ⟨fold_romTable_eq_crc5_of_length_add (Nat.add_sub_cancel' hlen), reassemble_lt ds⟩

/-! ### Five digits -/

theorem fold_romTable_five_eq_zero_iff (a b c d e : Digit) :
    fold Config.romTable [a, b, c, d, e] = 0 ↔ e = fold Config.romTable [a, b, c, d] :=
  (readTable_romTable_eq_zero_iff _).trans BitVec.xor_eq_zero_iff

/-- Settles O44: the last lookup is zero only at zero, so the last digit must cancel the fold before it. -/
theorem groupDigitsFoldToZeroExactly : Obligations.GroupDigitsFoldToZeroExactly := by
  refine ⟨fold_romTable_five_eq_zero_iff, fun w => (fold_romTable_five_eq_zero_iff _ _ _ _ _).mpr rfl, fun w => ?_⟩
  rw [groupDigits, bitSerialAndTableDrivenPathsAgree]

end Sys2Proof.Machine
end

section
/-!
Round trips of symbols and groups: symbols and digits under an admissible alphabet (41_alphabet.md), and a group, which
decodes to the word it encodes whatever its letter case (44_group_decoder.md R86).
-/

namespace Sys2Proof.Machine

/-! ### Symbols and digits -/

/-- No symbol of an admissible alphabet is a lowercase letter, so folding leaves each as it is. -/
theorem casefold_readAlpha {α : Alphabet} (hα : alphabetOk α = true) (d : Digit) :
    casefold (readAlpha α d) = readAlpha α d :=
  casefold_of_not_lowercase (readAlpha_not_lowercase hα d)

theorem digitOf_readAlpha {α : Alphabet} (hα : alphabetOk α = true) (d : Digit) :
    digitOf α (readAlpha α d) = some d :=
  (digitOf_eq_some_iff hα).mpr (casefold_readAlpha hα d).symm

/-- Settles O38: both round trips are the reverse lookup read in the two directions. -/
theorem alphabetRoundTrips : Obligations.AlphabetRoundTrips := fun _ hα =>
  ⟨digitOf_readAlpha hα, fun _ _ h => (digitOf_eq_some_iff hα).mp h⟩

theorem resolvesTo_symbols {α : Alphabet} (hα : alphabetOk α = true) (ds : List Digit) :
    resolvesTo α (ds.map (readAlpha α)) ds := by
  simp [resolvesTo, digitOf_readAlpha hα]

/-! ### Round trip of a group -/

theorem encodeWord_eq_map_groupDigits (α : Alphabet) (t : Table) (w : Word) :
    encodeWord α t w = (groupDigits t w).map (readAlpha α) := rfl

theorem groupDigits_length (t : Table) (w : Word) : (groupDigits t w).length = 5 := rfl

theorem packWord_digits (w : Word) :
    packWord (w.extractLsb' 15 5) (w.extractLsb' 10 5) (w.extractLsb' 5 5) (w.extractLsb' 0 5) = w := by
  ext i hi
  interval_cases i <;> simp [packWord]

/-- A text that resolves to a word's digits decodes to the word. -/
theorem decodeGroup_of_resolvesTo_groupDigits {α : Alphabet} {t : Table} {g : Text} {w : Word}
    (h : resolvesTo α g (groupDigits t w)) : decodeGroup α t g = .accepted w := by
  have hcheck : checkDigits t g _ _ _ _ (fold t (digits4 w)) = .accepted _ := checkDigits_of_eq g rfl
  rw [decodeGroup_of_resolvesTo t h, hcheck, packWord_digits]

theorem decodeGroup_encodeWord {α : Alphabet} (t : Table) (w : Word) (hα : alphabetOk α = true) :
    decodeGroup α t (encodeWord α t w) = .accepted w :=
  decodeGroup_of_resolvesTo_groupDigits (resolvesTo_symbols hα _)

/-- Settles O45: the decoder is a left inverse of the encoder. -/
theorem encodeWordIsInjective : Obligations.EncodeWordIsInjective := by
  intro α t hα v w h
  have hdecode : GroupResult.accepted v = .accepted w := by
    rw [← decodeGroup_encodeWord t v hα, h, decodeGroup_encodeWord t w hα]
  exact GroupResult.accepted.inj hdecode

/-! ### Letter case -/

theorem resolvesTo_map_casefold_iff {α : Alphabet} {g : Text} {ds : List Digit} :
    resolvesTo α (g.map casefold) ds ↔ resolvesTo α g ds := by
  have hcomp : digitOf α ∘ casefold = digitOf α := funext (digitOf_casefold α)
  rw [resolvesTo, List.map_map, hcomp, resolvesTo]

theorem firstUnresolved.map_casefold {α : Alphabet} {g : Text} {k : Nat} {c : Code} (h : firstUnresolved α g k c) :
    firstUnresolved α (g.map casefold) k (casefold c) := by
  obtain ⟨hk, hnone, hbefore⟩ := h
  refine ⟨by simp [hk], by rw [digitOf_casefold, hnone], fun j hj b hb => ?_⟩
  rw [List.getElem?_map, Option.map_eq_some_iff] at hb
  obtain ⟨x, hx, rfl⟩ := hb
  rw [digitOf_casefold]
  exact hbefore j hj x hx

/-- The verdict on five digits does not depend on the text they were read from. -/
theorem sameVerdict_checkDigits (t : Table) (g g' : Text) (a b c d e : Digit) :
    sameVerdict (checkDigits t g a b c d e) (checkDigits t g' a b c d e) := by
  by_cases h : fold t [a, b, c, d] = e
  · rw [checkDigits_of_eq g h, checkDigits_of_eq g' h]
    exact rfl
  · rw [checkDigits_of_ne g h, checkDigits_of_ne g' h]
    exact ⟨rfl, rfl⟩

theorem sameVerdict_decodeGroup_map_casefold (α : Alphabet) (t : Table) (g : Text) :
    sameVerdict (decodeGroup α t g) (decodeGroup α t (g.map casefold)) := by
  have hlen' : (g.map casefold).length = g.length := List.length_map _
  by_cases hlen : g.length = 5
  case neg =>
    rw [decodeGroup_of_length_ne hlen, decodeGroup_of_length_ne (hlen' ▸ hlen)]
    exact ⟨rfl, rfl⟩
  case pos =>
    obtain ⟨ds, hds⟩ | ⟨k, c, hkc⟩ := resolvesTo_or_firstUnresolved α g
    · match ds, hds.length_eq.symm.trans hlen with
      | [a, b, c, d, e], _ =>
        rw [decodeGroup_of_resolvesTo t hds, decodeGroup_of_resolvesTo t (resolvesTo_map_casefold_iff.mpr hds)]
        exact sameVerdict_checkDigits t _ _ a b c d e
    · rw [decodeGroup_of_firstUnresolved t hlen hkc,
        decodeGroup_of_firstUnresolved t (hlen'.trans hlen) hkc.map_casefold]
      exact ⟨rfl, rfl⟩

/-- Settles O49: the round trip, and the decoder's cases, which read a character through its folded form. -/
theorem groupRoundTripAndCaseInsensitivity : Obligations.GroupRoundTripAndCaseInsensitivity :=
  ⟨fun _ t w hα => decodeGroup_encodeWord t w hα, sameVerdict_decodeGroup_map_casefold⟩

end Sys2Proof.Machine
end

section
/-!
Error detection (44_group_decoder.md R87, R88). The symbols of five digits are accepted exactly when the digits fold to
zero. A changed digit adds its syndrome to the fold, the change sent through the table once for that digit and once for
each after it, and a syndrome is zero only for no change.
-/

namespace Sys2Proof.Machine

/-! ### The syndrome of a changed digit -/

/-- A change of the fold's state goes through the table once for each digit to come. -/
theorem foldl_foldStep_xor (ds : List Digit) (s δ : Digit) :
    ds.foldl (foldStep Config.romTable) (s ^^^ δ) =
      ds.foldl (foldStep Config.romTable) s ^^^ (readTable Config.romTable)^[ds.length] δ := by
  induction ds generalizing s δ with
  | nil => rfl
  | cons d ds ih =>
    have hstep : foldStep Config.romTable (s ^^^ δ) d =
        foldStep Config.romTable s d ^^^ readTable Config.romTable δ := by
      rw [foldStep, ← BitVec.xor_assoc, readTable_romTable_xor, foldStep]
    rw [List.foldl_cons, hstep, ih, List.foldl_cons, List.length_cons, Function.iterate_succ_apply]

theorem foldl_foldStep_changeDigit {ds : List Digit} {i : Nat} (hi : i < ds.length) (s δ : Digit) :
    (changeDigit ds i δ).foldl (foldStep Config.romTable) s =
      ds.foldl (foldStep Config.romTable) s ^^^ (readTable Config.romTable)^[ds.length - i] δ := by
  induction ds generalizing i s with
  | nil => exact absurd hi (Nat.not_lt_zero i)
  | cons d ds ih =>
    cases i with
    | zero =>
      have hstep : foldStep Config.romTable s (d ^^^ δ) =
          foldStep Config.romTable s d ^^^ readTable Config.romTable δ := by
        have hcomm : d ^^^ δ ^^^ s = d ^^^ s ^^^ δ := by ac_rfl
        rw [foldStep, hcomm, readTable_romTable_xor, foldStep]
      rw [changeDigit, List.modify_zero_cons, List.foldl_cons, hstep, foldl_foldStep_xor, List.foldl_cons, Nat.sub_zero,
        List.length_cons, Function.iterate_succ_apply]
    | succ i =>
      rw [List.length_cons, Nat.add_lt_add_iff_right] at hi
      rw [List.length_cons, Nat.add_sub_add_right, List.foldl_cons, ← ih hi, changeDigit, List.modify_succ_cons,
        List.foldl_cons, changeDigit]

theorem fold_changeDigit {ds : List Digit} {i : Nat} (hi : i < ds.length) (δ : Digit) :
    fold Config.romTable (changeDigit ds i δ) =
      fold Config.romTable ds ^^^ (readTable Config.romTable)^[ds.length - i] δ :=
  foldl_foldStep_changeDigit hi 0 δ

theorem changeDigit_length (ds : List Digit) (i : Nat) (δ : Digit) : (changeDigit ds i δ).length = ds.length :=
  List.length_modify _ _ _

/-- Replacing a digit changes it by the XOR of the old and the new one. -/
theorem set_eq_changeDigit {ds : List Digit} {i : Nat} {x : Digit} (hx : ds[i]? = some x) (y : Digit) :
    ds.set i y = changeDigit ds i (x ^^^ y) := by
  induction ds generalizing i with
  | nil => simp at hx
  | cons d ds ih =>
    cases i with
    | zero =>
      obtain rfl : d = x := by simpa using hx
      have hy : d ^^^ (d ^^^ y) = y := by rw [← BitVec.xor_assoc, BitVec.xor_self, BitVec.zero_xor]
      rw [List.set_cons_zero, changeDigit, List.modify_zero_cons, hy]
    | succ i => rw [List.set_cons_succ, ih (by simpa using hx), changeDigit, changeDigit, List.modify_succ_cons]

theorem iterate_readTable_romTable_eq_zero_iff (n : Nat) (v : Digit) :
    (readTable Config.romTable)^[n] v = 0 ↔ v = 0 := by
  induction n generalizing v with
  | zero => exact Iff.rfl
  | succ n ih => rw [Function.iterate_succ_apply, ih, readTable_romTable_eq_zero_iff]

/-- The table moves every digit but 0. -/
theorem readTable_romTable_eq_self_iff (v : Digit) : readTable Config.romTable v = v ↔ v = 0 := by
  revert v
  decide

theorem fold_groupDigits (w : Word) : fold Config.romTable (groupDigits Config.romTable w) = 0 :=
  (fold_romTable_five_eq_zero_iff _ _ _ _ _).mpr rfl

theorem fold_changeDigit_groupDigits {w : Word} {k : Nat} (hk : k < 5) (δ : Digit) :
    fold Config.romTable (changeDigit (groupDigits Config.romTable w) k δ) =
      (readTable Config.romTable)^[5 - k] δ := by
  rw [fold_changeDigit hk, fold_groupDigits]
  exact BitVec.zero_xor

/-! ### The symbols of five digits -/

theorem decodeGroup_symbols_of_fold_ne_zero {α : Alphabet} (hα : alphabetOk α = true) {ds : List Digit}
    (hlen : ds.length = 5) (h : fold Config.romTable ds ≠ 0) :
    ∃ actual expected, decodeGroup α Config.romTable (ds.map (readAlpha α)) =
      .rejected (.checksumMismatch (ds.map (readAlpha α)) actual expected) := by
  match ds, hlen with
  | [a, b, c, d, e], _ =>
    have hne : fold Config.romTable [a, b, c, d] ≠ e := fun heq =>
      h ((fold_romTable_five_eq_zero_iff a b c d e).mpr heq.symm)
    exact ⟨_, _, (decodeGroup_of_resolvesTo _ (resolvesTo_symbols hα _)).trans (checkDigits_of_ne _ hne)⟩

theorem isAccepted_decodeGroup_symbols_iff {α : Alphabet} (hα : alphabetOk α = true) {ds : List Digit}
    (hlen : ds.length = 5) :
    (decodeGroup α Config.romTable (ds.map (readAlpha α))).isAccepted = true ↔ fold Config.romTable ds = 0 := by
  by_cases h : fold Config.romTable ds = 0
  case neg =>
    obtain ⟨actual, expected, hdecode⟩ := decodeGroup_symbols_of_fold_ne_zero hα hlen h
    rw [hdecode]
    exact iff_of_false nofun h
  case pos =>
    match ds, hlen with
    | [a, b, c, d, e], _ =>
      have heq : fold Config.romTable [a, b, c, d] = e := ((fold_romTable_five_eq_zero_iff a b c d e).mp h).symm
      rw [decodeGroup_of_resolvesTo _ (resolvesTo_symbols hα _), checkDigits_of_eq _ heq]
      exact iff_of_true rfl h

/-! ### One character -/

theorem encodeWord_getElem? {α : Alphabet} {t : Table} {w : Word} {k : Nat} (hk : k < 5) :
    ∃ d, (groupDigits t w)[k]? = some d ∧ (encodeWord α t w)[k]? = some (readAlpha α d) := by
  have hd : (groupDigits t w)[k]? = some ((groupDigits t w)[k]) := List.getElem?_eq_getElem hk
  exact ⟨_, hd, by rw [encodeWord_eq_map_groupDigits, List.getElem?_map, hd, Option.map_some]⟩

theorem firstUnresolved_encodeWord_set {α : Alphabet} (hα : alphabetOk α = true) {t : Table} {w : Word} {k : Nat}
    {c : Code} (hk : k < 5) (hc : digitOf α c = none) : firstUnresolved α ((encodeWord α t w).set k c) k c := by
  refine ⟨List.getElem?_set_self hk, hc, fun j hj b hb => ?_⟩
  obtain ⟨d, -, hd⟩ := encodeWord_getElem? (α := α) (t := t) (w := w) (hj.trans hk)
  rw [List.getElem?_set_ne hj.ne', hd, Option.some_inj] at hb
  rw [← hb, digitOf_readAlpha hα, Option.isSome_some]

/-- Settles O50: a different symbol has a different digit, whose syndrome is not zero. -/
theorem singleCharacterErrorsAreDetected : Obligations.SingleCharacterErrorsAreDetected := by
  intro α w k c hα hk
  refine ⟨fun ⟨d, hd⟩ hne => ?symbol, fun hc => ?none⟩
  case symbol =>
    subst hd
    obtain ⟨x, hx, hsym⟩ := encodeWord_getElem? (α := α) (t := Config.romTable) (w := w) hk
    have hδ : x ^^^ d ≠ 0 := fun h => hne (by rw [hsym, BitVec.xor_eq_zero_iff.mp h])
    have htext : (encodeWord α Config.romTable w).set k (readAlpha α d) =
        (changeDigit (groupDigits Config.romTable w) k (x ^^^ d)).map (readAlpha α) := by
      rw [← set_eq_changeDigit hx, List.map_set, encodeWord_eq_map_groupDigits]
    have hfold : fold Config.romTable (changeDigit (groupDigits Config.romTable w) k (x ^^^ d)) ≠ 0 := by
      rw [fold_changeDigit_groupDigits hk, Ne, iterate_readTable_romTable_eq_zero_iff]
      exact hδ
    rw [htext]
    exact decodeGroup_symbols_of_fold_ne_zero hα (changeDigit_length _ _ _) hfold
  case none =>
    exact decodeGroup_of_firstUnresolved _ (List.length_set) (firstUnresolved_encodeWord_set hα hk hc)

/-! ### Two characters -/

/-- Two changes of digits cancel in the fold exactly when their syndromes are the same. -/
theorem fold_changeDigit_changeDigit_eq_zero_iff {w : Word} {i j : Nat} (hi : i < 5) (hj : j < 5) (a b : Digit) :
    fold Config.romTable (changeDigit (changeDigit (groupDigits Config.romTable w) i a) j b) = 0 ↔
      (readTable Config.romTable)^[5 - i] a = (readTable Config.romTable)^[5 - j] b := by
  have hlen : (changeDigit (groupDigits Config.romTable w) i a).length = 5 := changeDigit_length _ _ _
  rw [fold_changeDigit (hlen ▸ hj), fold_changeDigit_groupDigits hi, hlen]
  exact BitVec.xor_eq_zero_iff

theorem changeDigit_changeDigit_length (w : Word) (i j : Nat) (a b : Digit) :
    (changeDigit (changeDigit (groupDigits Config.romTable w) i a) j b).length = 5 := by
  rw [changeDigit_length, changeDigit_length, groupDigits_length]

/-- An adjacent transposition changes both digits by the same amount, and the table moves what is not 0. -/
theorem isAccepted_decodeGroup_transposed {α : Alphabet} (hα : alphabetOk α = true) {w : Word} {k : Nat} {x y : Code}
    (hk : k < 4) (hx : (encodeWord α Config.romTable w)[k]? = some x)
    (hy : (encodeWord α Config.romTable w)[k + 1]? = some y) (hne : x ≠ y) :
    (decodeGroup α Config.romTable (((encodeWord α Config.romTable w).set k y).set (k + 1) x)).isAccepted = false := by
  obtain ⟨d, hd, hdx⟩ := encodeWord_getElem? (α := α) (t := Config.romTable) (w := w) (k := k) (by omega)
  obtain ⟨e, he, hey⟩ := encodeWord_getElem? (α := α) (t := Config.romTable) (w := w) (k := k + 1) (by omega)
  obtain rfl := Option.some.inj (hx.symm.trans hdx)
  obtain rfl := Option.some.inj (hy.symm.trans hey)
  have htext : ((encodeWord α Config.romTable w).set k (readAlpha α e)).set (k + 1) (readAlpha α d) =
      (changeDigit (changeDigit (groupDigits Config.romTable w) k (d ^^^ e)) (k + 1) (d ^^^ e)).map (readAlpha α) := by
    have he' : ((groupDigits Config.romTable w).set k e)[k + 1]? = some e := by
      rw [List.getElem?_set_ne (Nat.lt_succ_self k).ne, he]
    rw [← set_eq_changeDigit hd, BitVec.xor_comm d e, ← set_eq_changeDigit he', List.map_set, List.map_set,
      encodeWord_eq_map_groupDigits]
  rw [htext, ← Bool.not_eq_true, isAccepted_decodeGroup_symbols_iff hα (changeDigit_changeDigit_length _ _ _ _ _),
    fold_changeDigit_changeDigit_eq_zero_iff (by omega) (by omega)]
  intro hsyndromes
  have hsteps : 5 - k = (5 - (k + 1)) + 1 := by omega
  rw [hsteps, Function.iterate_succ_apply] at hsyndromes
  have hfixed : readTable Config.romTable (d ^^^ e) = d ^^^ e :=
    readTable_romTable_injective.iterate _ hsyndromes
  exact hne (congrArg _ (BitVec.xor_eq_zero_iff.mp ((readTable_romTable_eq_self_iff _).mp hfixed)))

/-! ### Counting the double changes -/

/-- The 31 changes of a digit. -/
def nonzeroDigits : List Digit := (List.range 31).map fun a => BitVec.ofNat 5 (a + 1)

/-- The ten pairs of positions in a group. -/
def positionPairs : List (Nat × Nat) :=
  (List.range 5).flatMap fun i => ((List.range 5).filter fun j => decide (i < j)).map fun j => (i, j)

theorem doubleChanges_eq : doubleChanges =
    positionPairs.flatMap fun ij => nonzeroDigits.flatMap fun a => nonzeroDigits.map fun b => (ij.1, ij.2, a, b) := by
  simp only [doubleChanges, positionPairs, nonzeroDigits, List.flatMap_assoc, List.flatMap_map, List.map_map,
    Function.comp_def]

theorem nonzeroDigits_length : nonzeroDigits.length = 31 := rfl

theorem positionPairs_length : positionPairs.length = 10 := rfl

theorem positionPairs_lt : ∀ ij ∈ positionPairs, ij.1 < 5 ∧ ij.2 < 5 := by decide

theorem nonzeroDigits_nodup : nonzeroDigits.Nodup := by decide

theorem mem_nonzeroDigits_iff : ∀ d : Digit, d ∈ nonzeroDigits ↔ d ≠ 0 := by decide

theorem length_flatMap_of_forall_length_eq {β γ : Type} {l : List β} {f : β → List γ} {n : Nat}
    (h : ∀ x ∈ l, (f x).length = n) : (l.flatMap f).length = l.length * n := by
  rw [List.length_flatMap, List.map_congr_left h, List.map_const', List.sum_replicate, smul_eq_mul]

theorem doubleChanges_length : doubleChanges.length = 9610 := by
  rw [doubleChanges_eq, length_flatMap_of_forall_length_eq (n := 31 * 31), positionPairs_length]
  intro ij _
  rw [length_flatMap_of_forall_length_eq (n := 31), nonzeroDigits_length]
  intro a _
  rw [List.length_map, nonzeroDigits_length]

/-- A first change at one position is cancelled by exactly one change at another: a nonzero digit is the syndrome of
exactly one change there. -/
theorem length_filter_syndrome_eq (m n : Nat) {a : Digit} (ha : a ≠ 0) :
    (nonzeroDigits.filter fun b =>
      decide ((readTable Config.romTable)^[m] a = (readTable Config.romTable)^[n] b)).length = 1 := by
  have hbij : Function.Bijective (readTable Config.romTable)^[n] :=
    Finite.injective_iff_bijective.mp (readTable_romTable_injective.iterate n)
  obtain ⟨b, hb⟩ := hbij.surjective ((readTable Config.romTable)^[m] a)
  have hne : b ≠ 0 := by
    rwa [Ne, ← iterate_readTable_romTable_eq_zero_iff n, hb, iterate_readTable_romTable_eq_zero_iff]
  have hsame : (fun c => decide ((readTable Config.romTable)^[m] a = (readTable Config.romTable)^[n] c)) =
      fun c => c == b := by
    funext c
    rw [Bool.eq_iff_iff, decide_eq_true_iff, beq_iff_eq, ← hb, hbij.injective.eq_iff, eq_comm]
  rw [hsame, ← List.countP_eq_length_filter]
  exact List.count_eq_one_of_mem nonzeroDigits_nodup ((mem_nonzeroDigits_iff b).mpr hne)

/-- The double changes accepted by a predicate that goes by the syndromes: one second change for each pair of positions
and each first change. -/
theorem length_filter_doubleChanges {P : Nat × Nat × Digit × Digit → Bool}
    (hP : ∀ i j a b, i < 5 → j < 5 →
      P (i, j, a, b) = decide ((readTable Config.romTable)^[5 - i] a = (readTable Config.romTable)^[5 - j] b)) :
    (doubleChanges.filter P).length = 310 := by
  rw [doubleChanges_eq, List.filter_flatMap, length_flatMap_of_forall_length_eq (n := 31 * 1), positionPairs_length]
  intro ij hij
  obtain ⟨hi, hj⟩ := positionPairs_lt ij hij
  rw [List.filter_flatMap, length_flatMap_of_forall_length_eq (n := 1), nonzeroDigits_length]
  intro a ha
  rw [List.filter_map, List.length_map,
    ← length_filter_syndrome_eq (5 - ij.1) (5 - ij.2) ((mem_nonzeroDigits_iff a).mp ha)]
  exact congrArg (fun q => (nonzeroDigits.filter q).length) (funext fun b => hP ij.1 ij.2 a b hi hj)

/-- Settles O51: which two changes cancel goes by their syndromes, and letter case by the digits a text resolves to. -/
theorem multiCharacterErrorDetection : Obligations.MultiCharacterErrorDetection := by
  intro α w hα
  refine ⟨fun k x y hk hx hy hne => isAccepted_decodeGroup_transposed hα hk hx hy hne, doubleChanges_length,
    length_filter_doubleChanges fun i j a b hi hj => ?accepted, fun g hg => ?letterCase⟩
  case accepted =>
    rw [Bool.eq_iff_iff, isAccepted_decodeGroup_symbols_iff hα (changeDigit_changeDigit_length _ _ _ _ _),
      fold_changeDigit_changeDigit_eq_zero_iff hi hj, decide_eq_true_iff]
  case letterCase =>
    have hfolded : resolvesTo α (g.map casefold) (groupDigits Config.romTable w) := hg ▸ resolvesTo_symbols hα _
    exact decodeGroup_of_resolvesTo_groupDigits (resolvesTo_map_casefold_iff.mp hfolded)

end Sys2Proof.Machine
end

section
/-!
Words and keys: which word sequences splitting gives back and how long a split is (42_words.md), the shape of a key text
(30_encoding.md section 4), the rendering of accepted words and the round trip of a key (45_key.md section 4).
-/

namespace Sys2Proof.Machine

/-! ### Splitting and joining -/

theorem splitWords_toNat (w : Word) : splitWords w.toNat = [w] := by
  rw [splitWords_of_div_eq_zero (Nat.div_eq_of_lt w.isLt), BitVec.ofNat_toNat, BitVec.setWidth_eq]

/-- An integer with more than the low word behind it. -/
theorem splitWords_append {n : Nat} (hn : n ≠ 0) (w : Word) :
    splitWords (n * 2 ^ 20 + w.toNat) = splitWords n ++ [w] := by
  have hw : w.toNat < 2 ^ 20 := w.isLt
  have hdiv : (n * 2 ^ 20 + w.toNat) / 2 ^ 20 = n := by omega
  have hmod : (n * 2 ^ 20 + w.toNat) % 2 ^ 20 = w.toNat := by omega
  have hlarge : (n * 2 ^ 20 + w.toNat) / 2 ^ 20 ≠ 0 := by rwa [hdiv]
  rw [splitWords_of_div_ne_zero hlarge, hdiv, hmod, BitVec.ofNat_toNat, BitVec.setWidth_eq]

/-- Induction on an integer by its low word taken off, as the loop does (42_words.md R76). -/
theorem splitWords_induction {P : Nat → Prop} (small : ∀ n, n / 2 ^ 20 = 0 → P n)
    (large : ∀ n, n / 2 ^ 20 ≠ 0 → P (n / 2 ^ 20) → P n) (n : Nat) : P n := by
  induction n using Nat.strongRecOn with
  | ind n ih =>
    by_cases h : n / 2 ^ 20 = 0
    · exact small n h
    · exact large n h (ih _ (Nat.div_lt_self (by omega) (by decide)))

theorem splitWords_head_ne_zero {n : Nat} (hn : n ≠ 0) : (splitWords n).head? ≠ some 0 := by
  induction n using splitWords_induction with
  | small n h =>
    have hlt : n < 2 ^ 20 := Nat.lt_of_div_eq_zero (by decide) h
    rw [splitWords_of_div_eq_zero h, List.head?_cons, Ne, Option.some_inj]
    intro hzero
    have htoNat : n % 2 ^ 20 = 0 := congrArg BitVec.toNat hzero
    exact hn (by rwa [Nat.mod_eq_of_lt hlt] at htoNat)
  | large n h ih =>
    rw [splitWords_of_div_ne_zero h, List.head?_append_of_ne_nil _ (List.ne_nil_of_length_pos (splitWords_length_pos _))]
    exact ih h

theorem size_div_two_pow {n : Nat} (h : n / 2 ^ 20 ≠ 0) : n.size = (n / 2 ^ 20).size + 20 := by
  have hle : ∀ m, (n / 2 ^ 20).size ≤ m ↔ n.size ≤ m + 20 := fun m => by
    rw [Nat.size_le, Nat.size_le, Nat.pow_add, Nat.div_lt_iff_lt_mul (by decide)]
  have hlarge : 20 < n.size := Nat.lt_size.mpr (by omega)
  have h1 := (hle _).mp (Nat.le_refl _)
  have h2 := (hle (n.size - 20)).mpr (by omega)
  omega

/-- One word for every 20 bits begun, and one for 0. -/
theorem splitWords_length (n : Nat) : (splitWords n).length = max 1 ((n.size + 19) / 20) := by
  induction n using splitWords_induction with
  | small n h =>
    have hsize : n.size ≤ 20 := Nat.size_le.mpr (Nat.lt_of_div_eq_zero (by decide) h)
    rw [splitWords_of_div_eq_zero h, List.length_singleton]
    omega
  | large n h ih =>
    have hpos : 0 < (n / 2 ^ 20).size := Nat.size_pos.mpr (Nat.pos_of_ne_zero h)
    rw [splitWords_of_div_ne_zero h, List.length_append, List.length_singleton, ih, size_div_two_pow h]
    omega

/-- Splitting gives back a sequence without a leading zero word. -/
theorem splitWords_joinWords {ws : List Word} (hne : ws ≠ []) (hws : ws.length = 1 ∨ ws.head? ≠ some 0) :
    splitWords (joinWords ws) = ws := by
  induction ws using List.reverseRecOn with
  | nil => exact absurd rfl hne
  | append_singleton ws w ih =>
    by_cases hempty : ws = []
    case pos =>
      rw [hempty, List.nil_append, joinWords_singleton, splitWords_toNat]
    case neg =>
      have hlong : (ws ++ [w]).length ≠ 1 := by simpa using hempty
      have hhead : ws.head? ≠ some 0 := by
        rw [← List.head?_append_of_ne_nil ws hempty (l₂ := [w])]
        exact hws.resolve_left hlong
      have hsplit : splitWords (joinWords ws) = ws := ih hempty (.inr hhead)
      have hjoin : joinWords ws ≠ 0 := by
        intro hzero
        rw [hzero, splitWords_of_div_eq_zero (Nat.zero_div _)] at hsplit
        exact hhead (hsplit ▸ rfl)
      rw [joinWords_append_eq_add, splitWords_append hjoin, hsplit]

/-- A split has a word, and a leading zero word only if it is the split of 0. -/
theorem splitWords_joinWords_eq_iff {ws : List Word} :
    splitWords (joinWords ws) = ws ↔ ws ≠ [] ∧ (ws.length = 1 ∨ ws.head? ≠ some 0) := by
  refine ⟨fun h => ⟨?nonempty, ?leading⟩, fun ⟨hne, hws⟩ => splitWords_joinWords hne hws⟩
  case nonempty =>
    rw [← h]
    exact List.ne_nil_of_length_pos (splitWords_length_pos _)
  case leading =>
    rw [← h]
    by_cases hzero : joinWords ws = 0
    · exact .inl (by rw [hzero, splitWords_of_div_eq_zero (Nat.zero_div _), List.length_singleton])
    · exact .inr (splitWords_head_ne_zero hzero)

theorem joinWords_eq_ofDigits (ws : List Word) :
    joinWords ws = Nat.ofDigits (2 ^ 20) (ws.reverse.map BitVec.toNat) := by
  induction ws using List.reverseRecOn with
  | nil => rfl
  | append_singleton ws w ih =>
    rw [joinWords_append_eq_add, List.reverse_append, List.reverse_singleton, List.singleton_append, List.map_cons,
      Nat.ofDigits_cons, ← ih, Nat.add_comm, Nat.mul_comm]

/-- Settles O42: the words of a split and the value of a join, each by its own induction. -/
theorem splitOfJoinIsIdentityExactly : Obligations.SplitOfJoinIsIdentityExactly :=
  ⟨fun _ => splitWords_joinWords_eq_iff, splitWords_length, fun _ => splitWords_head_ne_zero, joinWords_eq_ofDigits⟩

/-! ### The shape of a key text -/

theorem readAlpha_ne_separator {α : Alphabet} (hα : alphabetOk α = true) (d : Digit) :
    readAlpha α d ≠ Config.separator := by
  obtain ⟨-, -, -, -, -, hsep⟩ := alphabetOk_iff.mp hα
  simpa using List.all_eq_true.mp hsep _ (readAlpha_mem_toList α d)

theorem joinGroups_cons_cons (g h : Text) (gs : List Text) :
    joinGroups (g :: h :: gs) = g ++ Config.separator :: joinGroups (h :: gs) := by
  simp [joinGroups, List.intercalate, List.intersperse]

/-- What stands at the place `j` of a key text: a separator at every sixth place, a symbol at the others. -/
def KeyChar (α : Alphabet) (j : Nat) (c : Code) : Prop :=
  (j % 6 = 5 → c = Config.separator) ∧ (j % 6 ≠ 5 → c ≠ Config.separator ∧ ∃ d, readAlpha α d = c)

theorem keyChar_of_symbol {α : Alphabet} (hα : alphabetOk α = true) {j : Nat} (hj : j < 5) (d : Digit) :
    KeyChar α j (readAlpha α d) :=
  ⟨fun h => absurd h (by omega), fun _ => ⟨readAlpha_ne_separator hα d, d, rfl⟩⟩

theorem keyChar_of_encodeWord {α : Alphabet} (hα : alphabetOk α = true) {t : Table} {w : Word} {j : Nat} {c : Code}
    (hj : j < 5) (hc : (encodeWord α t w)[j]? = some c) : KeyChar α j c := by
  obtain ⟨d, -, hd⟩ := encodeWord_getElem? (α := α) (t := t) (w := w) hj
  obtain rfl := Option.some.inj (hc.symm.trans hd)
  exact keyChar_of_symbol hα hj d

theorem joinGroups_encodeWord_length (α : Alphabet) (t : Table) (w : Word) (ws : List Word) :
    (joinGroups ((w :: ws).map (encodeWord α t))).length = 6 * ws.length + 5 := by
  induction ws generalizing w with
  | nil => rfl
  | cons v ws ih =>
    rw [List.map_cons, List.map_cons, joinGroups_cons_cons, List.length_append, List.length_cons, ← List.map_cons, ih,
      encodeWord_length, List.length_cons]
    omega

theorem keyChar_of_joinGroups {α : Alphabet} (hα : alphabetOk α = true) {t : Table} {w : Word} {ws : List Word} {j : Nat}
    {c : Code} (hc : (joinGroups ((w :: ws).map (encodeWord α t)))[j]? = some c) : KeyChar α j c := by
  induction ws generalizing w j with
  | nil =>
    obtain ⟨hj, -⟩ := List.getElem?_eq_some_iff.mp hc
    exact keyChar_of_encodeWord hα hj hc
  | cons v ws ih =>
    rw [List.map_cons, List.map_cons, joinGroups_cons_cons, ← List.map_cons] at hc
    obtain hj | rfl | ⟨i, rfl⟩ : j < 5 ∨ j = 5 ∨ ∃ i, j = 5 + (i + 1) := by
      obtain h | h := Nat.lt_or_ge j 6
      · omega
      · exact .inr (.inr ⟨j - 6, by omega⟩)
    · rw [List.getElem?_append_left hj] at hc
      exact keyChar_of_encodeWord hα hj hc
    · exact ⟨fun _ => (Option.some.inj hc).symm, fun h => absurd rfl h⟩
    · rw [List.getElem?_append_right (Nat.le_add_right 5 _), encodeWord_length, Nat.add_sub_cancel_left,
        List.getElem?_cons_succ] at hc
      have hmod : (5 + (i + 1)) % 6 = i % 6 := by omega
      rw [KeyChar, hmod]
      exact ih hc

/-- Settles O53: the first group, its separator, and the key of the other groups behind them. -/
theorem keyTextHasItsShape : Obligations.KeyTextHasItsShape := by
  intro α t n hα
  obtain ⟨w, ws, hws⟩ := List.exists_cons_of_length_pos (splitWords_length_pos n)
  rw [encodeKey, hws]
  refine ⟨?length, fun j c hc => keyChar_of_joinGroups hα hc⟩
  rw [joinGroups_encodeWord_length, List.length_cons]
  omega

/-! ### Rendering accepted words -/

/-- The digits of an integer are those of its upper part and those of its lower part. -/
theorem hexPad_add (m k n : Nat) : hexPad (m + k) n = hexPad m (n / 16 ^ k) ++ hexPad k n := by
  induction k generalizing n with
  | zero => simp [hexPad]
  | succ k ih =>
    rw [← Nat.add_assoc, hexPad, ih, hexPad, Nat.div_div_eq_div_mul, ← Nat.pow_succ', List.append_assoc]

/-- Only the lower part reaches the last digits. -/
theorem hexPad_mul_pow_add (k a n : Nat) : hexPad k (a * 16 ^ k + n) = hexPad k n := by
  induction k generalizing n with
  | zero => rfl
  | succ k ih =>
    have hpow : a * 16 ^ (k + 1) = a * 16 ^ k * 16 := by rw [Nat.pow_succ, Nat.mul_assoc]
    have hdiv : (a * 16 ^ (k + 1) + n) / 16 = a * 16 ^ k + n / 16 := by omega
    have hdigit : BitVec.ofNat 4 (a * 16 ^ (k + 1) + n) = BitVec.ofNat 4 n := by
      apply BitVec.eq_of_toNat_eq
      rw [BitVec.toNat_ofNat, BitVec.toNat_ofNat]
      omega
    rw [hexPad, hdiv, ih, hdigit, hexPad]

theorem render_append (rs rs' : List GroupResult) : render (rs ++ rs') = render rs ++ render rs' :=
  List.flatMap_append

/-- Settles O58, by induction on the words from the last: a word is five hexadecimal digits of the joined integer. -/
theorem renderingOfAcceptedWordsIsJoinedHex : Obligations.RenderingOfAcceptedWordsIsJoinedHex := by
  intro ws
  induction ws using List.reverseRecOn with
  | nil => rfl
  | append_singleton ws w ih =>
    have hw : w.toNat < 16 ^ 5 := w.isLt
    have hpow : (2 : Nat) ^ 20 = 16 ^ 5 := by decide
    have hdiv : (joinWords ws * 16 ^ 5 + w.toNat) / 16 ^ 5 = joinWords ws := by omega
    have hlast : render [.accepted w] = hexPad 5 w.toNat := (List.append_nil _).trans (hex5_eq_hexPad w)
    rw [List.map_append, render_append, ih, List.map_singleton, hlast, List.length_append, List.length_singleton,
      Nat.mul_add, hexPad_add, joinWords_append_eq_add, hpow, hdiv, hexPad_mul_pow_add]

/-! ### The round trip of a key -/

theorem separator_not_mem_encodeWord {α : Alphabet} (hα : alphabetOk α = true) (t : Table) (w : Word) :
    Config.separator ∉ encodeWord α t w := by
  rw [encodeWord_eq_map_groupDigits, List.mem_map]
  exact fun ⟨d, _, hd⟩ => readAlpha_ne_separator hα d hd

/-- The fields of a key are the groups it was joined from, and each decodes to its word. -/
theorem decodeKey_encodeKey {α : Alphabet} (hα : alphabetOk α = true) (t : Table) (n : Nat) :
    decodeKey α t (encodeKey α t n) = (splitWords n).map GroupResult.accepted := by
  have hne : (splitWords n).map (encodeWord α t) ≠ [] :=
    List.ne_nil_of_length_pos (by rw [List.length_map]; exact splitWords_length_pos n)
  have hfree : ∀ g ∈ (splitWords n).map (encodeWord α t), Config.separator ∉ g := by
    intro g hg
    obtain ⟨w, -, rfl⟩ := List.mem_map.mp hg
    exact separator_not_mem_encodeWord hα t w
  rw [encodeKey, decodeKey_joinGroups hne hfree, List.map_map]
  exact List.map_congr_left fun w _ => decodeGroup_encodeWord t w hα

/-- Settles O59: each command answers within its unbounded capacity, and its function undoes the one before. -/
theorem keyRoundTripThroughCommands : Obligations.KeyRoundTripThroughCommands := by
  intro s hs hr hw ht
  have hwords : ∀ n, fits s.params.maxWords n = true := fun n => by rw [hw, fits_none]
  have htext : ∀ n, fits s.params.maxText n = true := fun n => by rw [ht, fits_none]
  have hready : ∀ p, ({ s with ports := p } : State).tableReady = true := fun _ => hr
  refine ⟨encodeKey s.alpha s.table s.ports.nat, ?encode, fun p hp => ?decode, fun p hp => ?join, fun p hp => ?render⟩
  case encode => exact (exec_encodeKey_of_ready hr).trans (withinWords_of_fits (hwords _) _)
  case decode =>
    have hresults : decodeKey s.alpha s.table p.text = (splitWords s.ports.nat).map GroupResult.accepted := by
      rw [hp, decodeKey_encodeKey hs.alphabet]
    rw [← hresults]
    exact (whenReady_of_ready (hready p) _).trans (withinText_of_fits (htext _) _)
  case join =>
    have hnat : joinWords p.words = s.ports.nat := by rw [hp, joinOfSplitIsIdentity]
    rw [← hnat]
    exact withinWords_of_fits (hwords _) _
  case render =>
    have hhex : render p.results = hexPad (5 * (splitWords s.ports.nat).length) s.ports.nat := by
      rw [hp, renderingOfAcceptedWordsIsJoinedHex, joinOfSplitIsIdentity]
    rw [← hhex]
    exact withinText_of_fits (htext _) _

end Sys2Proof.Machine
end
